-- ==== Sys2Proof/Word.lean ====
section
/-! DEFINITION. Word.lean: the widths of the words and fields the spec numbers as bits
(spec/30_encoding.md R70, R81; spec/10_state.md R20, R39). -/

namespace Sys2Proof

/-- An 8-bit colour value or wire byte (R74, R84). -/
abbrev Byte := BitVec 8

/-- An encoded brightness, 6 bits (R10, R20). -/
abbrev Bri := BitVec 6

/-- The bit pattern of an IEEE-754 binary64 brightness fraction (R17, R55). -/
abbrev Binary64 := BitVec 64

/-- A wall-clock time in milliseconds, 64 bits unsigned (R39). -/
abbrev Time := BitVec 64

/-- A command word (R70). -/
abbrev CommandWord := BitVec 128

/-- A poll-tick event word (R81). -/
abbrev EventWord := BitVec 16

end Sys2Proof
end

