-- ==== Sys2Proof/Syntax.lean ====
section
/-! DEFINITION. Syntax.lean: one constructor for each row of spec/opcode_table.json, with the operands the
row's command or event reads (spec/30_encoding.md R71 to R75, R81). -/

namespace Sys2Proof

/-- The ten commands and the poll-tick event. `a` is the signed argument A (R75); a brightness operand is
`some` pattern exactly when BP = 1 (R73); the last Boolean of a command is F (R72). -/
inductive Instr where
  /-- INIT (R105). -/
  | init (bri : Option Binary64)
  /-- SET_PIXEL (R106). -/
  | setPixel (a : Int) (r g b : Byte) (bri : Option Binary64) (redraw : Bool)
  /-- SET_CHANNEL (R107). -/
  | setChannel (a : Int) (r g b : Byte) (bri : Option Binary64) (redraw : Bool)
  /-- SET_ALL (R108). -/
  | setAll (r g b : Byte) (bri : Option Binary64) (redraw : Bool)
  /-- CLEAR_ALL (R109). -/
  | clearAll (redraw : Bool)
  /-- RENDER (R140). -/
  | render
  /-- TEARDOWN (R111). -/
  | teardown (turnOffFirst : Bool)
  /-- GET_BUTTON_SPECS (R170). -/
  | getButtonSpecs
  /-- MONITOR_BUTTON (R171). -/
  | monitorButton (a : Int)
  /-- NEXT_RECORD (R179). -/
  | nextRecord (a : Int)
  /-- POLL_TICK, an event and not a command: PIN and LVL (R81, R174). -/
  | pollTick (pin : Nat) (level : Bool)
  deriving DecidableEq, Repr

/-- A word on one of the block's inputs: a command word on a command port, or an event word from the GPIO
backend. The port tells the two apart (R91). -/
inductive PortWord where
  | command (w : CommandWord)
  | event (w : EventWord)
  deriving DecidableEq, Repr

end Sys2Proof
end

