-- ==== Sys2Proof/WellFormed.lean ====
section
/-! DEFINITION. WellFormed.lean: the instructions a word can carry. A is a signed 32-bit integer
(spec/30_encoding.md R75) and PIN an unsigned 8-bit one (R81); every other operand is of its field's width by
its type. -/

namespace Sys2Proof

/-- A fits the signed 32-bit field A: −2^31 ≤ a ≤ 2^31 − 1 (R75). -/
def argFits (a : Int) : Bool := decide (-2147483648 ≤ a ∧ a ≤ 2147483647)

/-- PIN fits the unsigned 8-bit field PIN (R81). -/
def pinFits (pin : Nat) : Bool := decide (pin < 256)

/-- Every operand fits the field that carries it. -/
def Instr.wellFormed : Instr → Bool
  | .init _ => true
  | .setPixel a _ _ _ _ _ => argFits a
  | .setChannel a _ _ _ _ _ => argFits a
  | .setAll _ _ _ _ _ => true
  | .clearAll _ => true
  | .render => true
  | .teardown _ => true
  | .getButtonSpecs => true
  | .monitorButton a => argFits a
  | .nextRecord a => argFits a
  | .pollTick pin _ => pinFits pin

end Sys2Proof
end

