-- ==== Sys2Proof/Decode.lean ====
section
/-! DEFINITION. Decode.lean: the decoder of command words and event words, total, with every refused word
refused by name, and after it the encoder (spec/30_encoding.md R70 to R77, R81, R91). -/

namespace Sys2Proof

/-- Why a word is no instruction. -/
inductive DecodeError where
  /-- RSV ≠ 0 (R76): the word is answered IllegalCommand (R215). -/
  | reservedBits
  /-- OP in 0xA to 0xF (R76): the word is answered IllegalCommand (R215). -/
  | reservedOpcode
  /-- An event word with bits 15:9 not zero, which the environment never produces (R81). -/
  | malformedEvent
  deriving DecidableEq, Repr

/-- OP, bits 3:0 (R70). -/
def fieldOp (w : CommandWord) : BitVec 4 := w.extractLsb' 0 4

/-- F, bit 4 (R70, R72). -/
def fieldF (w : CommandWord) : Bool := w.getLsbD 4

/-- BP, bit 5 (R70, R73). -/
def fieldBp (w : CommandWord) : Bool := w.getLsbD 5

/-- RSV, bits 7:6 (R70, R76). -/
def fieldRsv (w : CommandWord) : BitVec 2 := w.extractLsb' 6 2

/-- R, bits 15:8 (R70, R74). -/
def fieldR (w : CommandWord) : Byte := w.extractLsb' 8 8

/-- G, bits 23:16 (R70, R74). -/
def fieldG (w : CommandWord) : Byte := w.extractLsb' 16 8

/-- B, bits 31:24 (R70, R74). -/
def fieldB (w : CommandWord) : Byte := w.extractLsb' 24 8

/-- A, bits 63:32, read as a signed two's-complement integer (R70, R75). -/
def fieldA (w : CommandWord) : Int := (w.extractLsb' 32 32).toInt

/-- BRI, bits 127:64, a binary64 bit pattern (R55, R70). -/
def fieldBri (w : CommandWord) : Binary64 := w.extractLsb' 64 64

/-- The brightness operand: BRI when BP = 1, omitted (and BRI ignored) when BP = 0 (R73). -/
def briOperand (w : CommandWord) : Option Binary64 :=
  if fieldBp w then some (fieldBri w) else none

/-- The command of a legal opcode (R71); each reads only the fields its row lists (R77). -/
def decodeOpcode (w : CommandWord) : Except DecodeError Instr :=
  match (fieldOp w).toNat with
  | 0 => .ok (.init (briOperand w))
  | 1 => .ok (.setPixel (fieldA w) (fieldR w) (fieldG w) (fieldB w) (briOperand w) (fieldF w))
  | 2 => .ok (.setChannel (fieldA w) (fieldR w) (fieldG w) (fieldB w) (briOperand w) (fieldF w))
  | 3 => .ok (.setAll (fieldR w) (fieldG w) (fieldB w) (briOperand w) (fieldF w))
  | 4 => .ok (.clearAll (fieldF w))
  | 5 => .ok .render
  | 6 => .ok (.teardown (fieldF w))
  | 7 => .ok .getButtonSpecs
  | 8 => .ok (.monitorButton (fieldA w))
  | 9 => .ok (.nextRecord (fieldA w))
  | _ => .error .reservedOpcode

/-- A command word: RSV must be 0 and OP must be 0x0 to 0x9 (R71, R76). -/
def decodeCommand (w : CommandWord) : Except DecodeError Instr :=
  if fieldRsv w = 0 then decodeOpcode w else .error .reservedBits

/-- An event word: PIN in bits 7:0, LVL in bit 8, bits 15:9 zero (R81). -/
def decodeEvent (w : EventWord) : Except DecodeError Instr :=
  if w.extractLsb' 9 7 = 0 then .ok (.pollTick (w.extractLsb' 0 8).toNat (w.getLsbD 8))
  else .error .malformedEvent

/-- The decoder: a word's port says whether it is a command or an event (R91). -/
def decode : PortWord → Except DecodeError Instr
  | .command w => decodeCommand w
  | .event w => decodeEvent w

/-- A command word put together from its fields (R70); RSV is 0. -/
def commandWord (op : BitVec 4) (f : Bool) (bri : Option Binary64) (r g b : Byte) (a : Int) : CommandWord :=
  bri.getD 0 ++ BitVec.ofInt 32 a ++ b ++ g ++ r ++ (0 : BitVec 2) ++ BitVec.ofBool bri.isSome
    ++ BitVec.ofBool f ++ op

/-- The encoder: the word of an instruction, every field it does not read zero (R70 to R75, R81). -/
def encode : Instr → PortWord
  | .init bri => .command (commandWord 0x0 false bri 0 0 0 0)
  | .setPixel a r g b bri f => .command (commandWord 0x1 f bri r g b a)
  | .setChannel a r g b bri f => .command (commandWord 0x2 f bri r g b a)
  | .setAll r g b bri f => .command (commandWord 0x3 f bri r g b 0)
  | .clearAll f => .command (commandWord 0x4 f none 0 0 0 0)
  | .render => .command (commandWord 0x5 false none 0 0 0 0)
  | .teardown f => .command (commandWord 0x6 f none 0 0 0 0)
  | .getButtonSpecs => .command (commandWord 0x7 false none 0 0 0 0)
  | .monitorButton a => .command (commandWord 0x8 false none 0 0 0 a)
  | .nextRecord a => .command (commandWord 0x9 false none 0 0 0 a)
  | .pollTick pin level => .event ((0 : BitVec 7) ++ BitVec.ofBool level ++ BitVec.ofNat 8 pin)

/-- The word of a row of the opcode table, whose lowest nbits bits are those of w and whose other bits are 0:
the one row of 16 bits is the event word's (R81), every other row is a command word (R70; log 24). -/
def tableWord (nbits w : Nat) : PortWord :=
  if nbits = 16 then .event (BitVec.ofNat 16 w) else .command (BitVec.ofNat 128 (w % 2 ^ nbits))

/-- The instruction the decoder reads from a row's word (log 24). -/
def decodeTableWord (nbits w : Nat) : Option Instr :=
  match decode (tableWord nbits w) with
  | .ok i => some i
  | .error _ => none

end Sys2Proof
end

