-- ==== Sys2Proof/Config.lean ====
section
/-! DEFINITION. Config.lean: the fixed constants of the block, the names of its pins
(spec/00_scope.md R6 to R11, R15), its parameters (R12 to R14, spec/93 I6) and the values the spec leaves free
(log 1, 4, 26). The pin numbers and the button table are in Machine/Operands.lean. -/

namespace Sys2Proof

/-- PIXEL_COUNT (R6). -/
abbrev pixelCount : Nat := 16

/-- CHANNEL_COUNT (R7). -/
abbrev channelCount : Nat := 2

/-- PIXELS_PER_CHANNEL (R7). -/
abbrev pixelsPerChannel : Nat := 8

/-- START_FRAME_BITS (R9). -/
abbrev startFrameBits : Nat := 32

/-- END_FRAME_BITS (R9). -/
abbrev endFrameBits : Nat := 36

/-- PIXEL_FRAME_BYTES (R9). -/
abbrev pixelFrameBytes : Nat := 4

/-- The clock pulses of one render: 32 + 16 * 32 + 36 (R9). -/
abbrev frameBits : Nat := 580

/-- The GPIO writes of one render: three for each clock pulse (R143). -/
abbrev renderWrites : Nat := 1740

/-- SETTLE_DELAY_MS (R11). -/
abbrev settleDelayMs : Nat := 100

/-- BUTTON_COUNT (R15). -/
abbrev buttonCount : Nat := 6

/-- The six button pins, by the name of their button (R8, R15). -/
inductive ButtonPin where
  | fastForward | playPause | rewind | volUp | volDown | power
  deriving DecidableEq, Repr

/-- The eight pins of the block (R8, R24). -/
inductive Pin where
  | data
  | clock
  | button (p : ButtonPin)
  deriving DecidableEq, Repr

/-- One entry of the button table: the pin and the symbolic label (R28, R88). -/
structure ButtonSpec where
  pin : Nat
  name : String
  deriving DecidableEq, Repr

/-- P_QUEUE_CAP: a positive integer or UNBOUNDED (R14). -/
inductive QueueCap where
  | unbounded
  | bounded (cap : Nat) (positive : 0 < cap)
  deriving DecidableEq, Repr

/-- The parameters the block is built with (log 8): no step writes them. -/
structure Params where
  /-- P_DEFAULT_BRI, 0 to 31 (R13). -/
  defaultBri : Fin 32
  /-- P_IDLE_TIMEOUT_MS (R12). -/
  idleTimeoutMs : Nat
  /-- P_QUEUE_CAP (R14). -/
  queueCap : QueueCap
  /-- P_DRAIN_BEFORE_END, false in the spec's own rules (spec/93 I6). -/
  drainBeforeEnd : Bool
  deriving DecidableEq, Repr

/-- P_DEFAULT_BRI of the reset state: OPEN (R13), a free value (log 4). -/
opaque Config.defaultBri : Fin 32

/-- NOW_MS before the environment has supplied a time (R226): a free value (log 1). -/
opaque Config.resetNowMs : Time

/-- T_PULSE: OPEN and read by no rule (R251; log 26). -/
opaque Config.tPulse : Nat

/-- The parameters of the reset state: P_DEFAULT_BRI free, the others at the value the spec calls the
default or the faithful one (R12, R14, spec/93 I6; log 4 to 7). -/
def Config.params : Params where
  defaultBri := Config.defaultBri
  idleTimeoutMs := 5000
  queueCap := .unbounded
  drainBeforeEnd := false

end Sys2Proof
end

