-- ==== Sys2Proof/Machine/Operands.lean ====
section
/-! DEFINITION. Operands.lean: the operand forms of the commands: pin numbers and the button table
(spec/00_scope.md R8, spec/10_state.md R28), pixel indices and channels (R21, R106, R107), and the brightness
operand, its validation and its encoding in binary64 arithmetic (spec/00_scope.md R17,
spec/40_strip_controller.md R100 to R103). -/

namespace Sys2Proof

/-- The physical pin number of a button (R8). -/
def ButtonPin.number : ButtonPin → Nat
  | .fastForward => 29
  | .playPause => 31
  | .rewind => 33
  | .volUp => 36
  | .volDown => 37
  | .power => 32

/-- The buttons in the order of the button table (R28). -/
def ButtonPin.all : List ButtonPin :=
  [.fastForward, .playPause, .rewind, .volUp, .volDown, .power]

/-- The button with a given pin number, none where the number is not in BUTTON_PINS (R8). -/
def ButtonPin.ofNumber? (n : Int) : Option ButtonPin :=
  ButtonPin.all.find? fun p => (p.number : Int) == n

/-- The symbolic label of a button, as the source spells it (R28, R88). -/
def ButtonPin.label : ButtonPin → String
  | .fastForward => "FAST_FORWARD"
  | .playPause => "PLAY_PAUSE"
  | .rewind => "REWIND"
  | .volUp => "VOL_UP"
  | .volDown => "VOL_DOWN"
  | .power => "POWER"

/-- The physical pin number: DATA_PIN = 16, CLOCK_PIN = 18, and the button pins (R8). -/
def Pin.number : Pin → Nat
  | .data => 16
  | .clock => 18
  | .button p => p.number

/-- BTN, the read-only button table, in the source's order (R28). -/
def buttonTable : List ButtonSpec :=
  ButtonPin.all.map fun p => { pin := p.number, name := p.label }

end Sys2Proof

namespace Sys2Proof.Machine

/-- SET_PIXEL's index check: a < 0 or a > 15 raises IndexOutOfRange (R106, R212). -/
def indexInRange (a : Int) : Bool := decide (0 ≤ a ∧ a ≤ 15)

/-- SET_CHANNEL's channel check: a ≠ 0 and a ≠ 1 raises InvalidChannel (R107, R213). -/
def channelInRange (a : Int) : Bool := decide (a = 0 ∨ a = 1)

/-- Pixel i is the pixel that index a names (R106). -/
def isPixel (a : Int) (i : Fin pixelCount) : Bool := decide ((i.val : Int) = a)

/-- Pixel i is in channel a, the indices 8a to 8a + 7 (R21). -/
def inChannel (a : Int) (i : Fin pixelCount) : Bool := decide (8 * a ≤ i.val ∧ (i.val : Int) ≤ 8 * a + 7)

/-- The exponent field of a binary64 pattern, bits 62:52 (R17). -/
def b64Exp (b : Binary64) : Nat := (b.extractLsb' 52 11).toNat

/-- The fraction field of a binary64 pattern, bits 51:0 (R17). -/
def b64Frac (b : Binary64) : Nat := (b.extractLsb' 0 52).toNat

/-- The sign of a binary64 pattern, bit 63 (R55). -/
def b64Neg (b : Binary64) : Bool := b.getLsbD 63

/-- isNaN: every pattern with all exponent bits set and a fraction that is not zero (R17; log 21). -/
def b64IsNaN (b : Binary64) : Bool := b64Exp b == 2047 && b64Frac b != 0

/-- The magnitude of a pattern in units of 2^-1074, of which every finite binary64 value is a whole number; an
infinity comes out above every finite value (log 21). -/
def b64Magnitude (b : Binary64) : Nat :=
  if b64Exp b = 0 then b64Frac b else (2 ^ 52 + b64Frac b) * 2 ^ (b64Exp b - 1)

/-- The signed value of a pattern that is not a NaN, in units of 2^-1074. -/
def b64Units (b : Binary64) : Int := if b64Neg b then -(b64Magnitude b : Int) else b64Magnitude b

/-- x ≤ y in binary64: false when either is a NaN (R17). -/
def b64Le (x y : Binary64) : Bool :=
  !b64IsNaN x && !b64IsNaN y && decide (b64Units x ≤ b64Units y)

/-- fl(0.1) (R17, R100). -/
def flTenth : Binary64 := 0x3FB999999999999A

/-- 1.0. -/
def flOne : Binary64 := 0x3FF0000000000000

/-- VALID(b) = not isNaN(b) and b ≥ 0.1 and b ≤ 1.0, both comparisons in binary64 (R100). -/
def validBri (b : Binary64) : Bool := !b64IsNaN b && b64Le flTenth b && b64Le b flOne

/-- Round a magnitude in units of 2^-1074 to 53 significant bits, to nearest with ties to even (R17; log 21).
Overflow to an infinity is left out: no product that ENC makes is above 31 (log 20). -/
def roundNearestEven (n : Nat) : Nat :=
  if n < 2 ^ 53 then n
  else
    let ulp := 2 ^ (n.log2 - 52)
    let q := n / ulp
    let r := n % ulp
    if ulp < 2 * r ∨ (ulp = 2 * r ∧ q % 2 = 1) then (q + 1) * ulp else q * ulp

/-- fl(31.0 × b) in units of 2^-1074, for b not negative (R101). -/
def times31 (b : Binary64) : Nat := roundNearestEven (31 * b64Magnitude b)

/-- ENC(b) = floor(fl(31.0 × b)) AND 0b111111 (R101). It has a meaning only where VALID(b) holds, and is used
only there (spec/93 I2; log 20). -/
def encBri (b : Binary64) : Bri := BitVec.ofNat 6 ((times31 b / 2 ^ 1074) &&& 0b111111)

/-- The check "bp = 1 and not VALID(bri)" of every command with a brightness operand (R211). -/
def briInvalid : Option Binary64 → Bool
  | none => false
  | some b => !validBri b

/-- The encoded brightness of a checked operand: none when it is omitted (R73, R101). -/
def encOperand (bri : Option Binary64) : Option Bri := bri.map encBri

end Sys2Proof.Machine
end

