-- ==== Sys2Proof/Machine/State.lean ====
section
/-! DEFINITION. State.lean: everything the spec gives the block (spec/10_state.md R20 to R42), the observations
it makes (R31, R32, spec/30_encoding.md R79), its inputs (R39, R81) and its parameters, as plain data; why a step
can stop; and the state after reset (spec/70_reset_and_hazards.md R240). -/

namespace Sys2Proof.Machine

/-- Why the machine stops. -/
inductive Fault where
  /-- Raised by a render write that would read the pixel buffer while it holds no value, the assertion of R241.
  Safe, and out of reach from reset. -/
  | noPixelValue
  deriving DecidableEq, Repr

/-- Why a word or an instruction has no meaning. -/
inductive Refusal where
  /-- Raised by exec for an instruction without a meaning; no arm raises it. Safe. -/
  | notModelled (mnemonic : String)
  /-- Raised by a step that is given an event word with bits 15:9 not zero, which the environment never
  produces (R81; log 17). Safe. -/
  | malformedEvent
  deriving DecidableEq, Repr

/-- One pixel of the buffer: 30 bits (R20). -/
structure Pixel where
  red : Byte
  green : Byte
  blue : Byte
  bri : Bri
  deriving DecidableEq, Repr

/-- The life cycle of the strip, LC (R23). -/
inductive Lifecycle where
  | uninit | ready | released
  deriving DecidableEq, Repr

/-- PINCFG of one pin (R24). -/
inductive PinConfig where
  | closed | output | inputPullup
  deriving DecidableEq, Repr

/-- One value for each button pin. -/
structure PerButton (α : Type) where
  fastForward : α
  playPause : α
  rewind : α
  volUp : α
  volDown : α
  power : α
  deriving DecidableEq, Repr

/-- The same value for every button pin. -/
def PerButton.replicate {α : Type} (x : α) : PerButton α := ⟨x, x, x, x, x, x⟩

/-- The value at a button pin. -/
def PerButton.get {α : Type} (m : PerButton α) : ButtonPin → α
  | .fastForward => m.fastForward
  | .playPause => m.playPause
  | .rewind => m.rewind
  | .volUp => m.volUp
  | .volDown => m.volDown
  | .power => m.power

/-- The map with one button pin's value replaced. -/
def PerButton.set {α : Type} (m : PerButton α) (p : ButtonPin) (x : α) : PerButton α :=
  match p with
  | .fastForward => { m with fastForward := x }
  | .playPause => { m with playPause := x }
  | .rewind => { m with rewind := x }
  | .volUp => { m with volUp := x }
  | .volDown => { m with volDown := x }
  | .power => { m with power := x }

/-- PINCFG: one configuration for each of the eight pins (R24). -/
structure PinConfigs where
  data : PinConfig
  clock : PinConfig
  buttons : PerButton PinConfig
  deriving DecidableEq, Repr

/-- PINCFG[p] (R24). -/
def PinConfigs.get (m : PinConfigs) : Pin → PinConfig
  | .data => m.data
  | .clock => m.clock
  | .button p => m.buttons.get p

/-- PINCFG with one pin's configuration replaced (R24). -/
def PinConfigs.set (m : PinConfigs) (p : Pin) (c : PinConfig) : PinConfigs :=
  match p with
  | .data => { m with data := c }
  | .clock => { m with clock := c }
  | .button b => { m with buttons := m.buttons.set b c }

/-- What the command that started a render does after the render's last write (R26). -/
inductive Continuation where
  /-- Respond(OK, none): RENDER and every redraw. -/
  | respondOk
  /-- The RELEASE of TEARDOWN (R111). -/
  | release
  deriving DecidableEq, Repr

/-- RS, the render sequencer (R26): k is the index of the next GPIO write. -/
inductive RenderState where
  | idle
  | busy (k : Fin renderWrites) (cont : Continuation)
  deriving DecidableEq, Repr

/-- A word held at the control port, decoded (log 18). -/
inductive HeldWord where
  | command (i : Instr)
  /-- A word with a reserved encoding, to be answered IllegalCommand (R76). -/
  | illegal
  deriving DecidableEq, Repr

/-- The control port (R27): the command in progress, and the words whose issuers are held, oldest first. -/
structure ControlPort where
  inProgress : Option Instr
  waiting : List HeldWord
  deriving DecidableEq, Repr

/-- The instance state st (R30). -/
inductive MonitorStatus where
  | monitoring | closed
  deriving DecidableEq, Repr

/-- One monitor instance (R30, R33 to R36, R40); a logical state is `true` for pressed, 1. -/
structure Monitor where
  st : MonitorStatus
  monitoring : Bool
  queue : List Bool
  lastPress : Time
  idleTimeoutMs : Nat
  startMs : Time
  ovf : Bool
  deriving DecidableEq, Repr

/-- A slot's stream port (R42): whether a NEXT_RECORD is pending, and how many more wait at the port behind it
(R179; log 12). -/
structure StreamPort where
  pending : Bool
  waiting : Nat
  deriving DecidableEq, Repr

/-- The mode of a GPIO open (R227). -/
inductive GpioMode where
  | input | output
  deriving DecidableEq, Repr

/-- The pull of a GPIO open (R227). -/
inductive Pull where
  | up | down | none
  deriving DecidableEq, Repr

/-- One event of the GPIO trace (R31); a level is `true` for high, 1. -/
inductive GpioEvent where
  | openPin (p : Pin) (mode : GpioMode) (pull : Pull)
  | write (p : Pin) (level : Bool)
  | close (p : Pin)
  deriving DecidableEq, Repr

/-- One signal of the signal trace (R32). -/
inductive Signal where
  | monitoring (p : ButtonPin)
  | pinChange (p : ButtonPin) (s : Bool)
  | ended (p : ButtonPin)
  deriving DecidableEq, Repr

/-- The port a command came from and its response goes to (R78, R79). -/
inductive PortId where
  | control
  | stream (p : ButtonPin)
  deriving DecidableEq, Repr

/-- The response codes (R80). -/
inductive Code where
  | ok | invalidBrightness | indexOutOfRange | invalidChannel | pinUnavailable | illegalCommand | notReady
  | noMonitor | ended
  deriving DecidableEq, Repr

/-- The payload of a response (R79). -/
inductive Payload where
  | none
  | buttonSpecs (table : List ButtonSpec)
  | record (bytes : List Byte)
  deriving DecidableEq, Repr

/-- One response, with the port it is given on (R79). -/
structure Response where
  port : PortId
  code : Code
  payload : Payload
  deriving DecidableEq, Repr

/-- One choice of the environment or of the scheduler (R5, R61; log 9). That the environment does not assert reset
during a run is the model's choice: no constructor does (R240; log 33). -/
inductive Input where
  /-- The environment issues a command word (R70). -/
  | command (w : CommandWord)
  /-- The GPIO backend delivers a poll tick (R81). -/
  | event (w : EventWord)
  /-- Slot p has the turn to take its settle step (R172). -/
  | settle (p : ButtonPin)
  /-- NOW_MS takes this value from here on (R39, R89). -/
  | clock (t : Time)
  /-- The control sequencer has the turn: a render write, or the oldest held command (R26, R27). -/
  | control
  /-- Slot p has the turn to take its NEXT_RECORD step, the evaluation of its held request (R61, R179). -/
  | request (p : ButtonPin)
  deriving DecidableEq, Repr

/-- One turn of the schedule: the choice, and whether the scheduler puts it before a held NEXT_RECORD that no longer
holds (R61, R221); otherwise such a request completes first (R179; log 10). -/
structure Turn where
  input : Input
  early : Bool
  deriving DecidableEq, Repr

/-- The whole machine. -/
structure State where
  /-- The pixel buffer (R20); it holds no value while LC is UNINIT (log 2). -/
  px : Vector Pixel pixelCount
  /-- LC (R23). -/
  lc : Lifecycle
  /-- PINCFG (R24). -/
  pinCfg : PinConfigs
  /-- DATA_Q (R25), none while the pin is not driven (log 3). -/
  dataQ : Option Bool
  /-- CLK_Q (R25), none while the pin is not driven (log 3). -/
  clkQ : Option Bool
  /-- RS (R26). -/
  rs : RenderState
  /-- The control port (R27). -/
  control : ControlPort
  /-- MS[p], none for NONE (R29). -/
  slots : PerButton (Option Monitor)
  /-- The stream ports (R42). -/
  streams : PerButton StreamPort
  /-- The GPIO trace, oldest event first (R31). -/
  gpio : List GpioEvent
  /-- The signal trace, oldest signal first (R32). -/
  signals : List Signal
  /-- The responses given, oldest first (R79; log 23). -/
  responses : List Response
  /-- NOW_MS (R39). -/
  nowMs : Time
  /-- The coming turns, the choices of the environment and the scheduler, next one first (log 9). -/
  inputs : List Turn
  /-- The parameters (log 8). -/
  params : Params
  deriving DecidableEq, Repr

/-- The colour and brightness no rule reads before the first INIT (R241; log 2). -/
def Pixel.placeholder : Pixel := ⟨0, 0, 0, 0⟩

/-- The state after reset (R240), the start of a run: no step returns to it, which is the model's choice, and the
lists of the model's own, the held words and the inputs, are empty (log 33). -/
def State.reset : State where
  px := Vector.replicate pixelCount Pixel.placeholder
  lc := .uninit
  pinCfg := ⟨.closed, .closed, .replicate .closed⟩
  dataQ := none
  clkQ := none
  rs := .idle
  control := ⟨none, []⟩
  slots := .replicate none
  streams := .replicate ⟨false, 0⟩
  gpio := []
  signals := []
  responses := []
  nowMs := Config.resetNowMs
  inputs := []
  params := Config.params

end Sys2Proof.Machine
end

