-- ==== Sys2Proof/Machine/Flags.lean ====
section
/-! DEFINITION. Flags.lean: the status bits and the tests on them: the logical state of a level
(spec/42_button_monitor.md R175), the settle delay (R172), the idle timeout (R177), the full queue (R174, R183),
the enabling of a poll tick (R173), and the number of a response code (spec/30_encoding.md R80). -/

namespace Sys2Proof.Machine

/-- s = 1 − l: a low level is a press, 1 (R175). -/
def logicalState (level : Bool) : Bool := !level

/-- t − t0 as an exact signed difference (R16, R172, R177). -/
def elapsedMs (t t0 : Time) : Int := (t.toNat : Int) - (t0.toNat : Int)

/-- The settle step of an instance is enabled at time t: monitoring = 0 and t − startMs ≥ 100 (R172). -/
def settleDue (t : Time) (i : Monitor) : Bool :=
  !i.monitoring && decide ((settleDelayMs : Int) ≤ elapsedMs t i.startMs)

/-- lastPress > 0 and t − lastPress > idleTimeoutMs (R177). -/
def idleExpired (t : Time) (i : Monitor) : Bool :=
  decide (0 < i.lastPress.toNat) && decide ((i.idleTimeoutMs : Int) < elapsedMs t i.lastPress)

/-- P_QUEUE_CAP ≠ UNBOUNDED and |Q| = P_QUEUE_CAP (R174). -/
def queueFull (cap : QueueCap) (i : Monitor) : Bool :=
  match cap with
  | .unbounded => false
  | .bounded n _ => i.queue.length == n

/-- A poll tick exists for a slot: MS[p] holds an instance with st = MONITORING and PINCFG[p] = INPUT_PULLUP
(R173). -/
def tickEnabled (c : PinConfig) (m : Option Monitor) : Bool :=
  match m with
  | none => false
  | some i => decide (i.st = .monitoring) && decide (c = .inputPullup)

/-- CODE, 4 bits (R80). -/
def codeNumber : Code → BitVec 4
  | .ok => 0
  | .invalidBrightness => 1
  | .indexOutOfRange => 2
  | .invalidChannel => 3
  | .pinUnavailable => 4
  | .illegalCommand => 5
  | .notReady => 6
  | .noMonitor => 7
  | .ended => 8

/-- The kind of each pull and mode as the pin configuration an open leaves (R24): the block opens inputs with
pull-up only (R227). -/
def configOfMode : GpioMode → PinConfig
  | .output => .output
  | .input => .inputPullup

end Sys2Proof.Machine
end

