-- ==== Sys2Proof/Machine/Ops.lean ====
section
/-! DEFINITION. Ops.lean: the operations the meanings share: the calls on the GPIO backend
(spec/00_scope.md R18, spec/10_state.md R24, R25, R31), signals (R32), responses and errors
(spec/30_encoding.md R79, spec/60_exceptions.md R210), the control port (R27), the writes of the pixel buffer
(spec/40_strip_controller.md R106 to R109), FINISH (R110) and RELEASE (R111).

An error is the block's only exception (R210, R222): `raiseError` is its one shared operation. Nothing is saved,
no mode changes, and there is no return. -/

namespace Sys2Proof.Machine

/-- GpioOpen(p, mode, pull), and PINCFG[p] becomes the mode opened (R18, R24). -/
def gpioOpen (p : Pin) (mode : GpioMode) (pull : Pull) (s : State) : State :=
  { s with
    gpio := s.gpio ++ [.openPin p mode pull]
    pinCfg := s.pinCfg.set p (configOfMode mode) }

/-- The level registers after a write to pin p: DATA_Q for pin 16, CLK_Q for pin 18 (R25). -/
def setLevel (p : Pin) (level : Bool) (s : State) : State :=
  match p with
  | .data => { s with dataQ := some level }
  | .clock => { s with clkQ := some level }
  | .button _ => s

/-- GpioWrite(p, level), and the pin's level register takes the level (R18, R25). It always succeeds
(spec/41_frame_encoder.md R148; log 22). -/
def gpioWrite (p : Pin) (level : Bool) (s : State) : State :=
  setLevel p level { s with gpio := s.gpio ++ [.write p level] }

/-- GpioClose(p), and PINCFG[p] becomes CLOSED; idempotent but for its trace event (R18, R24, R59). -/
def gpioClose (p : Pin) (s : State) : State :=
  { s with
    gpio := s.gpio ++ [.close p]
    pinCfg := s.pinCfg.set p .closed }

/-- Emit(sig) (R18, R32). -/
def emit (sig : Signal) (s : State) : State := { s with signals := s.signals ++ [sig] }

/-- Respond(code, payload) on a port (R18, R79). -/
def respond (port : PortId) (code : Code) (payload : Payload) (s : State) : State :=
  { s with responses := s.responses ++ [⟨port, code, payload⟩] }

/-- raise E: Respond(E, none) with no state written (R18, R210). -/
def raiseError (port : PortId) (code : Code) (s : State) : State := respond port code .none s

/-- The response that ends the command in progress: OK, and the control port holds no command (R26, R27). -/
def respondDone (s : State) : State :=
  respond .control .ok .none { s with control := { s.control with inProgress := none } }

/-- The control port takes a new command: RS is IDLE and no command is in progress (R27; log 19). -/
def portFree (s : State) : Bool := decide (s.rs = .idle) && s.control.inProgress.isNone

/-- HOLD at the control port: the word waits behind those already held (R18, R27; log 11). -/
def holdWord (w : HeldWord) (s : State) : State :=
  { s with control := { s.control with waiting := s.control.waiting ++ [w] } }

/-- A command on the control port: performed when the port takes a command, held otherwise (R27). -/
def onControl (i : Instr) (perform : State → State) (s : State) : State :=
  if portFree s then perform s else holdWord (.command i) s

/-- One pixel painted: the colour, and the brightness unless it is omitted (R73, R106). -/
def paintPixel (r g b : Byte) (e : Option Bri) (p : Pixel) : Pixel :=
  { red := r, green := g, blue := b, bri := e.getD p.bri }

/-- The selected entries of the buffer painted, the others kept (R106 to R109). -/
def paint (sel : Fin pixelCount → Bool) (r g b : Byte) (e : Option Bri) (s : State) : State :=
  { s with px := Vector.ofFn fun i => if sel i then paintPixel r g b e s.px[i] else s.px[i] }

/-- Every colour to zero, every brightness kept: CLEAR_ALL, and TEARDOWN with turnOffFirst (R109, R111). -/
def blacken (s : State) : State := paint (fun _ => true) 0 0 0 none s

/-- INIT's fill: black pixels of one brightness (R105). -/
def fillBlack (e : Bri) (s : State) : State := { s with px := Vector.replicate pixelCount ⟨0, 0, 0, e⟩ }

/-- RS <- BUSY(0, cont), with the command in progress (R26, R27). -/
def startRender (i : Instr) (cont : Continuation) (s : State) : State :=
  { s with
    rs := .busy 0 cont
    control := { s.control with inProgress := some i } }

/-- FINISH(f): answer OK at once, or start the render whose end answers (R110). -/
def finish (i : Instr) (redraw : Bool) (s : State) : State :=
  if redraw then startRender i .respondOk s else respond .control .ok .none s

/-- The pins TEARDOWN closes, in order: 16, 18, then the table's (R111). -/
def releasedPins : List Pin := .data :: .clock :: ButtonPin.all.map .button

/-- LC after RELEASE: RELEASED from READY, otherwise as it was (R111). -/
def releasedLc (lc : Lifecycle) : Lifecycle := if lc = .ready then .released else lc

/-- RELEASE (R111). -/
def release (s : State) : State :=
  let s := releasedPins.foldl (fun s p => gpioClose p s) s
  respondDone { s with dataQ := none, clkQ := none, lc := releasedLc s.lc }

/-- A stream port after its pending request is answered: the next one that waits at the port, if any, becomes
the pending one (R42, R179; log 12). -/
def portTaken (port : StreamPort) : StreamPort := ⟨decide (0 < port.waiting), port.waiting - 1⟩

/-- A stream port that a NEXT_RECORD is left at: pending, or waiting behind the pending one (R42, R179;
log 12). -/
def portHeld (port : StreamPort) : StreamPort :=
  if port.pending then ⟨true, port.waiting + 1⟩ else ⟨true, port.waiting⟩

/-- Slot p's pending request is answered (R42, R179). -/
def takeRequest (p : ButtonPin) (s : State) : State :=
  { s with streams := s.streams.set p (portTaken (s.streams.get p)) }

/-- A NEXT_RECORD is left at slot p's stream port (R42, R179). -/
def holdRequest (p : ButtonPin) (s : State) : State :=
  { s with streams := s.streams.set p (portHeld (s.streams.get p)) }

/-- MS[p] <- m (R29). -/
def setSlot (p : ButtonPin) (m : Monitor) (s : State) : State :=
  { s with slots := s.slots.set p (some m) }

end Sys2Proof.Machine
end

