-- ==== Sys2Proof/Machine/Monitor.lean ====
section
/-! DEFINITION. Monitor.lean: the button monitor: GET_BUTTON_SPECS, MONITOR_BUTTON, the settle step, POLL_TICK and
NEXT_RECORD (spec/42_button_monitor.md R170 to R187, spec/30_encoding.md R87). -/

namespace Sys2Proof.Machine

/-- GET_BUTTON_SPECS on a free control port: the button table, in every state (R170). -/
def getButtonSpecsCommand (s : State) : State := respond .control .ok (.buttonSpecs buttonTable) s

/-- GET_BUTTON_SPECS (R170). -/
def execGetButtonSpecs (s : State) : Host.Outcome State Fault Refusal :=
  .next (onControl .getButtonSpecs getButtonSpecsCommand s)

/-- A monitor instance as MONITOR_BUTTON creates it at time t (R171). -/
def newMonitor (idleTimeoutMs : Nat) (t : Time) : Monitor where
  st := .monitoring
  monitoring := false
  queue := []
  lastPress := 0
  idleTimeoutMs := idleTimeoutMs
  startMs := t
  ovf := false

/-- MONITOR_BUTTON's effect on button pin p once its checks have passed (R171, R185). -/
def startMonitor (p : ButtonPin) (s : State) : State :=
  let t := s.nowMs
  let s := gpioOpen (.button p) .input .up s
  let s := setSlot p (newMonitor s.params.idleTimeoutMs t) s
  respond .control .ok .none s

/-- MONITOR_BUTTON on a free control port (R171). -/
def monitorButtonCommand (a : Int) (s : State) : State :=
  match ButtonPin.ofNumber? a with
  | none => raiseError .control .pinUnavailable s
  | some p =>
    if s.pinCfg.get (.button p) ≠ .closed then raiseError .control .pinUnavailable s
    else startMonitor p s

/-- MONITOR_BUTTON (R171). -/
def execMonitorButton (a : Int) (s : State) : Host.Outcome State Fault Refusal :=
  .next (onControl (.monitorButton a) (monitorButtonCommand a) s)

/-- SETTLE(p), the settle step of slot p; where it is not enabled there is no such step and nothing changes
(R172; log 16). -/
def settleStep (p : ButtonPin) (s : State) : State :=
  match s.slots.get p with
  | none => s
  | some i =>
    if settleDue s.nowMs i then emit (.monitoring p) (setSlot p { i with monitoring := true } s)
    else s

/-- The queue append of a poll tick: dropped, with ovf set, when the queue is full (R174, R183). -/
def appendState (cap : QueueCap) (v : Bool) (i : Monitor) : Monitor :=
  if queueFull cap i then { i with ovf := true } else { i with queue := i.queue ++ [v] }

/-- The close of an instance by the idle timeout: st = CLOSED, the pin closed, end(p) emitted (R177). -/
def closeMonitor (p : ButtonPin) (i : Monitor) (s : State) : State :=
  emit (.ended p) (gpioClose (.button p) (setSlot p { i with st := .closed, lastPress := 0 } s))

/-- POLL_TICK(p, l) on the instance i of an enabled slot, at time NOW_MS (R174 to R178). -/
def tickInstance (p : ButtonPin) (level : Bool) (i : Monitor) (s : State) : State :=
  let t := s.nowMs
  let v := logicalState level
  let i := appendState s.params.queueCap v i
  let s := emit (.pinChange p v) s
  if v then setSlot p { i with lastPress := t } s
  else if idleExpired t i then closeMonitor p i s
  else setSlot p { i with lastPress := 0 } s

/-- The poll-tick step of a button pin; outside R173's condition there is no such step and nothing changes
(R173, R174; log 15). -/
def tickStep (p : ButtonPin) (level : Bool) (s : State) : State :=
  match s.slots.get p with
  | none => s
  | some i =>
    if tickEnabled (s.pinCfg.get (.button p)) (some i) then tickInstance p level i s else s

/-- The effect of a poll-tick event: PIN is a button pin, or there is no such step (R173). -/
def pollTickEvent (pin : Nat) (level : Bool) (s : State) : State :=
  match ButtonPin.ofNumber? pin with
  | none => s
  | some p => tickStep p level s

/-- POLL_TICK (R173, R174). -/
def execPollTick (pin : Nat) (level : Bool) (s : State) : Host.Outcome State Fault Refusal :=
  .next (pollTickEvent pin level s)

/-- RECORD(p, s): the pin in decimal ASCII digits, a comma, the state's digit, a line feed (R87, R180). -/
def record (p : ButtonPin) (v : Bool) : List Byte :=
  (Nat.toDigits 10 p.number).map (fun c => BitVec.ofNat 8 c.toNat) ++ [0x2C, if v then 0x31 else 0x30, 0x0A]

/-- The head of instance i's queue removed and answered as a record (R179, R180). -/
def deliver (p : ButtonPin) (i : Monitor) (v : Bool) (rest : List Bool) (s : State) : State :=
  respond (.stream p) .ok (.record (record p v)) (setSlot p { i with queue := rest } s)

/-- One evaluation of a NEXT_RECORD on slot p: none is HOLD, otherwise the state after the response (R179). With
P_DRAIN_BEFORE_END a CLOSED instance answers its queued records before END (spec/93 I6; log 7). -/
def evalRequest (p : ButtonPin) (s : State) : Option State :=
  match s.slots.get p with
  | none => some (raiseError (.stream p) .noMonitor s)
  | some i =>
    if i.st = .closed then
      match s.params.drainBeforeEnd, i.queue with
      | true, v :: rest => some (deliver p i v rest s)
      | _, _ => some (respond (.stream p) .ended .none s)
    else if !i.monitoring then none
    else
      match i.queue with
      | [] => none
      | v :: rest => some (deliver p i v rest s)

/-- A NEXT_RECORD at slot p's stream port: it waits behind a pending one, and is evaluated otherwise (R42,
R179). -/
def streamRequest (p : ButtonPin) (s : State) : State :=
  if (s.streams.get p).pending then holdRequest p s else (evalRequest p s).getD (holdRequest p s)

/-- The effect of a NEXT_RECORD: to the stream port of the slot A names; an A that is no button pin is answered
NoMonitor on the control port (R78, R217; log 14). -/
def nextRecordCommand (a : Int) (s : State) : State :=
  match ButtonPin.ofNumber? a with
  | none => onControl (.nextRecord a) (raiseError .control .noMonitor) s
  | some p => streamRequest p s

/-- NEXT_RECORD (R78, R179). -/
def execNextRecord (a : Int) (s : State) : Host.Outcome State Fault Refusal := .next (nextRecordCommand a s)

/-- Slot p's pending request does not hold any more (R179). -/
def requestReady (s : State) (p : ButtonPin) : Bool :=
  (s.streams.get p).pending && (evalRequest p s).isSome

/-- The step that completes slot p's pending request (R179; log 10): where it holds, nothing changes. -/
def serveRequest (p : ButtonPin) (s : State) : State :=
  match evalRequest p s with
  | none => s
  | some s' => takeRequest p s'

end Sys2Proof.Machine
end

