-- ==== Sys2Proof/Machine/Frame.lean ====
section
/-! DEFINITION. Frame.lean: the wire frame (spec/30_encoding.md R82 to R86), the serializer and the render
sequence (spec/41_frame_encoder.md R141 to R143), the render sequencer's one write a step (R144), RENDER (R140)
and the wire bit stream (spec/10_state.md R41). -/

namespace Sys2Proof.Machine

/-- bits8(v): v[7], v[6], ..., v[0] (R84, R86). -/
def bits8 (v : Byte) : List Bool := [7, 6, 5, 4, 3, 2, 1, 0].map v.getLsbD

/-- The global byte 0xE0 OR zext_8(bri) (R84). -/
def globalByte (p : Pixel) : Byte := 0xE0 ||| p.bri.zeroExtend 8

/-- The four bytes of a pixel frame: global, blue, green, red (R54, R84). -/
def pixelBytes (p : Pixel) : List Byte := [globalByte p, p.blue, p.green, p.red]

/-- PF(p), the 32 bits of a pixel frame (R84). -/
def pixelFrame (p : Pixel) : List Bool := (pixelBytes p).flatMap bits8

/-- FRAME(px): the start frame, the pixel frames in ascending index, the end frame (R82, R83, R85). -/
def frame (px : Vector Pixel pixelCount) : List Bool :=
  List.replicate startFrameBits false ++ px.toList.flatMap pixelFrame ++ List.replicate endFrameBits false

/-- SENDBIT(β): set the data line, then pulse the clock high and low (R141). -/
def sendBit (b : Bool) : List GpioEvent := [.write .data b, .write .clock true, .write .clock false]

/-- SENDBYTE's loop: send the bit under the mask 0x80, shift the byte left, for each of the bits left (R142). -/
def sendByteLoop : Nat → Byte → List GpioEvent
  | 0, _ => []
  | n + 1, t => sendBit (decide (t &&& 0x80 ≠ 0)) ++ sendByteLoop n (t <<< 1)

/-- SENDBYTE(v) (R142). -/
def sendByte (v : Byte) : List GpioEvent := sendByteLoop 8 v

/-- RENDER_SEQ: the GPIO writes of one render, in order (R143). -/
def renderSequence (px : Vector Pixel pixelCount) : List GpioEvent :=
  (List.replicate startFrameBits (sendBit false)).flatten
    ++ px.toList.flatMap (fun p => sendByte (globalByte p) ++ sendByte p.blue ++ sendByte p.green ++ sendByte p.red)
    ++ (List.replicate endFrameBits (sendBit false)).flatten

/-- Byte n of a pixel frame: 0 global, 1 blue, 2 green, 3 red (R144). -/
def pixelByte (p : Pixel) (n : Nat) : Byte :=
  match n with
  | 0 => globalByte p
  | 1 => p.blue
  | 2 => p.green
  | _ => p.red

/-- β, the bit number j of a render, as the render sequencer finds it (R144). -/
def frameBit (px : Vector Pixel pixelCount) (j : Nat) : Bool :=
  if j < 32 then false
  else if h : j < 544 then
    let p := px[(j - 32) / 32]'(by show _ < 16; omega)
    let n := (j - 32) % 32 / 8
    (pixelByte p n).getLsbD (7 - (j - 32) % 8)
  else false

/-- Write number k of a render: the pin and the level (R144). -/
def renderWrite (px : Vector Pixel pixelCount) (k : Nat) : Pin × Bool :=
  match k % 3 with
  | 0 => (.data, frameBit px (k / 3))
  | 1 => (.clock, true)
  | _ => (.clock, false)

/-- What follows the render's last write (R26, R144). -/
def continueWith : Continuation → State → State
  | .respondOk, s => respondDone s
  | .release, s => release s

/-- RS after write k: BUSY(k + 1, cont), or IDLE and cont after write 1739 (R144). -/
def advanceRender (k : Fin renderWrites) (cont : Continuation) (s : State) : State :=
  if h : k.val + 1 < renderWrites then { s with rs := .busy ⟨k.val + 1, h⟩ cont }
  else continueWith cont { s with rs := .idle }

/-- One step of the render sequencer in BUSY(k, cont) (R144). It reads the pixel buffer, and so asserts that the
buffer holds a value (R241; log 2). -/
def renderStep (k : Fin renderWrites) (cont : Continuation) (s : State) : Host.Outcome State Fault Refusal :=
  if s.lc = .uninit then .fault .noPixelValue
  else
    let w := renderWrite s.px k.val
    .next (advanceRender k cont (gpioWrite w.1 w.2 s))

/-- RENDER on a free control port (R140). -/
def renderCommand (s : State) : State :=
  if s.lc ≠ .ready then raiseError .control .notReady s else startRender .render .respondOk s

/-- RENDER (R140). -/
def execRender (s : State) : Host.Outcome State Fault Refusal := .next (onControl .render renderCommand s)

/-- The wire bits of a GPIO trace, from given levels of DATA_Q and CLK_Q: DATA_Q at each write of 1 to the clock
pin that finds CLK_Q = 0 (R41). The answer is none where a level without a value would be read (R241). -/
def wireFrom (dataQ clkQ : Option Bool) : List GpioEvent → Option (List Bool)
  | [] => some []
  | .write .data level :: rest => wireFrom (some level) clkQ rest
  | .write .clock false :: rest => wireFrom dataQ (some false) rest
  | .write .clock true :: rest =>
    match clkQ with
    | none => none
    | some true => wireFrom dataQ (some true) rest
    | some false =>
      match dataQ with
      | none => none
      | some d => (wireFrom dataQ (some true) rest).map (d :: ·)
  | .close .data :: rest => wireFrom none clkQ rest
  | .close .clock :: rest => wireFrom dataQ none rest
  | .write (.button _) _ :: rest => wireFrom dataQ clkQ rest
  | .close (.button _) :: rest => wireFrom dataQ clkQ rest
  | .openPin _ _ _ :: rest => wireFrom dataQ clkQ rest

/-- The wire bit stream of a whole GPIO trace, from reset (R41). -/
def wireBits (trace : List GpioEvent) : Option (List Bool) := wireFrom none none trace

end Sys2Proof.Machine
end

