-- ==== Sys2Proof/Machine/Strip.lean ====
section
/-! DEFINITION. Strip.lean: the strip controller's commands INIT, SET_PIXEL, SET_CHANNEL, SET_ALL, CLEAR_ALL and
TEARDOWN (spec/40_strip_controller.md R105 to R111). Each command makes its checks in the order of
spec/60_exceptions.md R220 and writes nothing before the last of them (R57, R210). -/

namespace Sys2Proof.Machine

/-- INIT's effect once its checks have passed (R105). -/
def initStrip (e : Bri) (s : State) : State :=
  let s := gpioOpen .data .output .none s
  let s := gpioOpen .clock .output .none s
  let s := gpioWrite .data false s
  let s := gpioWrite .clock false s
  let s := fillBlack e s
  respond .control .ok .none { s with lc := .ready }

/-- INIT's brightness: the encoded operand, or P_DEFAULT_BRI (R13, R105). -/
def initBri (bri : Option Binary64) (s : State) : Bri :=
  (encOperand bri).getD (BitVec.ofNat 6 s.params.defaultBri.val)

/-- INIT on a free control port (R105). -/
def initCommand (bri : Option Binary64) (s : State) : State :=
  if briInvalid bri then raiseError .control .invalidBrightness s
  else if s.lc = .ready then raiseError .control .pinUnavailable s
  else initStrip (initBri bri s) s

/-- INIT (R105). -/
def execInit (bri : Option Binary64) (s : State) : Host.Outcome State Fault Refusal :=
  .next (onControl (.init bri) (initCommand bri) s)

/-- SET_PIXEL on a free control port (R106). -/
def setPixelCommand (a : Int) (r g b : Byte) (bri : Option Binary64) (redraw : Bool) (s : State) : State :=
  if !indexInRange a then raiseError .control .indexOutOfRange s
  else if briInvalid bri then raiseError .control .invalidBrightness s
  else if s.lc ≠ .ready then raiseError .control .notReady s
  else finish (.setPixel a r g b bri redraw) redraw (paint (isPixel a) r g b (encOperand bri) s)

/-- SET_PIXEL (R106). -/
def execSetPixel (a : Int) (r g b : Byte) (bri : Option Binary64) (redraw : Bool) (s : State) :
    Host.Outcome State Fault Refusal :=
  .next (onControl (.setPixel a r g b bri redraw) (setPixelCommand a r g b bri redraw) s)

/-- SET_CHANNEL on a free control port (R107). -/
def setChannelCommand (a : Int) (r g b : Byte) (bri : Option Binary64) (redraw : Bool) (s : State) : State :=
  if !channelInRange a then raiseError .control .invalidChannel s
  else if briInvalid bri then raiseError .control .invalidBrightness s
  else if s.lc ≠ .ready then raiseError .control .notReady s
  else finish (.setChannel a r g b bri redraw) redraw (paint (inChannel a) r g b (encOperand bri) s)

/-- SET_CHANNEL (R107). -/
def execSetChannel (a : Int) (r g b : Byte) (bri : Option Binary64) (redraw : Bool) (s : State) :
    Host.Outcome State Fault Refusal :=
  .next (onControl (.setChannel a r g b bri redraw) (setChannelCommand a r g b bri redraw) s)

/-- SET_ALL on a free control port (R108). -/
def setAllCommand (r g b : Byte) (bri : Option Binary64) (redraw : Bool) (s : State) : State :=
  if briInvalid bri then raiseError .control .invalidBrightness s
  else if s.lc ≠ .ready then raiseError .control .notReady s
  else finish (.setAll r g b bri redraw) redraw (paint (fun _ => true) r g b (encOperand bri) s)

/-- SET_ALL (R108). -/
def execSetAll (r g b : Byte) (bri : Option Binary64) (redraw : Bool) (s : State) :
    Host.Outcome State Fault Refusal :=
  .next (onControl (.setAll r g b bri redraw) (setAllCommand r g b bri redraw) s)

/-- CLEAR_ALL on a free control port (R109). -/
def clearAllCommand (redraw : Bool) (s : State) : State :=
  if s.lc ≠ .ready then raiseError .control .notReady s
  else finish (.clearAll redraw) redraw (blacken s)

/-- CLEAR_ALL (R109). -/
def execClearAll (redraw : Bool) (s : State) : Host.Outcome State Fault Refusal :=
  .next (onControl (.clearAll redraw) (clearAllCommand redraw) s)

/-- TEARDOWN on a free control port: with turnOffFirst in READY the buffer is blackened and a render runs before
RELEASE; otherwise RELEASE at once (R111). -/
def teardownCommand (turnOffFirst : Bool) (s : State) : State :=
  if turnOffFirst ∧ s.lc = .ready then startRender (.teardown turnOffFirst) .release (blacken s)
  else release s

/-- TEARDOWN (R111). -/
def execTeardown (turnOffFirst : Bool) (s : State) : Host.Outcome State Fault Refusal :=
  .next (onControl (.teardown turnOffFirst) (teardownCommand turnOffFirst) s)

end Sys2Proof.Machine
end

