-- ==== Sys2Proof/Machine/Dispatch.lean ====
section
/-! DEFINITION. Dispatch.lean: one arm for each constructor of Instr. -/

namespace Sys2Proof.Machine

def exec (i : Instr) (s : State) : Host.Outcome State Fault Refusal :=
  match i with
  | .init bri => Sys2Proof.Machine.execInit bri s
  | .setPixel a r g b bri redraw => Sys2Proof.Machine.execSetPixel a r g b bri redraw s
  | .setChannel a r g b bri redraw => Sys2Proof.Machine.execSetChannel a r g b bri redraw s
  | .setAll r g b bri redraw => Sys2Proof.Machine.execSetAll r g b bri redraw s
  | .clearAll redraw => Sys2Proof.Machine.execClearAll redraw s
  | .render => Sys2Proof.Machine.execRender s
  | .teardown turnOffFirst => Sys2Proof.Machine.execTeardown turnOffFirst s
  | .getButtonSpecs => Sys2Proof.Machine.execGetButtonSpecs s
  | .monitorButton a => Sys2Proof.Machine.execMonitorButton a s
  | .nextRecord a => Sys2Proof.Machine.execNextRecord a s
  | .pollTick pin level => Sys2Proof.Machine.execPollTick pin level s

end Sys2Proof.Machine
end

