-- ==== Sys2Proof/Machine/Schedule.lean ====
section
/-! DEFINITION. Schedule.lean: which agent moves, and what its step is: the arrival and routing of a command word
(spec/30_encoding.md R76, R78), the turn of the control sequencer (spec/10_state.md R26, R27), the delivery of an
event word (R81), the settle turn (R172), the clock (R39) and the held NEXT_RECORD requests (R179). -/

namespace Sys2Proof.Machine

/-- The port a command word goes to (R78): OP = 0x9 to the stream port of the slot A names, if A is a button pin;
every other word to the control port. -/
def portOfWord (w : CommandWord) : PortId :=
  if fieldOp w = 0x9 then
    match ButtonPin.ofNumber? (fieldA w) with
    | some p => .stream p
    | none => .control
  else .control

/-- A new word may be performed at the control port: the port takes a command, and no word waits before it
(R27, R62; log 11). -/
def controlOpen (s : State) : Bool := portFree s && s.control.waiting.isEmpty

/-- A word with a reserved encoding: answered IllegalCommand on its port, changing nothing else (R76, R215). At
the control port it waits its turn (R27, R62); at a stream port it is no NEXT_RECORD and is answered at once
(log 13). -/
def illegalWord (port : PortId) (s : State) : State :=
  match port with
  | .stream p => raiseError (.stream p) .illegalCommand s
  | .control => if controlOpen s then raiseError .control .illegalCommand s else holdWord .illegal s

/-- A decoded command arrives at its port: behind the words that wait at the control port, or to exec. -/
def arriveCommand (port : PortId) (i : Instr) (s : State) : Host.Outcome State Fault Refusal :=
  match port with
  | .stream _ => exec i s
  | .control => if s.control.waiting.isEmpty then exec i s else .next (holdWord (.command i) s)

/-- A command word arrives (R78). -/
def arriveWord (w : CommandWord) (s : State) : Host.Outcome State Fault Refusal :=
  match decodeCommand w with
  | .error _ => .next (illegalWord (portOfWord w) s)
  | .ok i => arriveCommand (portOfWord w) i s

/-- A poll-tick event word arrives (R81). -/
def arriveEvent (w : EventWord) (s : State) : Host.Outcome State Fault Refusal :=
  match decodeEvent w with
  | .error _ => .refused .malformedEvent
  | .ok i => exec i s

/-- A held word is performed (R27). -/
def performWord (w : HeldWord) (s : State) : Host.Outcome State Fault Refusal :=
  match w with
  | .command i => exec i s
  | .illegal => .next (raiseError .control .illegalCommand s)

/-- The turn of the control sequencer: the next write of a render (R144), or the oldest held word, or, with
nothing to do, no change (R27; log 28). -/
def controlTurn (s : State) : Host.Outcome State Fault Refusal :=
  match s.rs with
  | .busy k cont => renderStep k cont s
  | .idle =>
    match s.control.waiting with
    | [] => .next s
    | w :: rest =>
      if portFree s then performWord w { s with control := { s.control with waiting := rest } } else .next s

/-- The turn of slot p to evaluate its held NEXT_RECORD: it completes, or, with nothing pending or while it holds,
nothing changes (R61, R179; log 10). -/
def requestTurn (p : ButtonPin) (s : State) : State := if requestReady s p then serveRequest p s else s

/-- One choice of the environment or the scheduler is taken (log 9). -/
def takeInput (x : Input) (s : State) : Host.Outcome State Fault Refusal :=
  match x with
  | .command w => arriveWord w s
  | .event w => arriveEvent w s
  | .settle p => .next (settleStep p s)
  | .clock t => .next { s with nowMs := t }
  | .control => controlTurn s
  | .request p => .next (requestTurn p s)

/-- The first slot, in table order, whose held NEXT_RECORD does not hold any more (R179; log 10). -/
def readySlot (s : State) : Option ButtonPin := ButtonPin.all.find? (requestReady s)

/-- The next turn comes before any ready held NEXT_RECORD: the scheduler's choice (R61, R221; log 10). -/
def nextIsEarly (s : State) : Bool :=
  match s.inputs with
  | [] => false
  | x :: _ => x.early

/-- The slot whose held NEXT_RECORD completes in this step: the first ready one (R179), unless the scheduler puts the
next turn before it (R61, R221; log 10). -/
def dueSlot (s : State) : Option ButtonPin := if nextIsEarly s then none else readySlot s

/-- The next turn is taken, or, when there is none, the control sequencer's (log 9). -/
def takeTurn (s : State) : Host.Outcome State Fault Refusal :=
  match s.inputs with
  | [] => controlTurn s
  | x :: rest => takeInput x.input { s with inputs := rest }

/-- One atomic step of one agent: the completion of a held NEXT_RECORD that is due, or the next turn (R61, R179). -/
def scheduledStep (s : State) : Host.Outcome State Fault Refusal :=
  match dueSlot s with
  | some p => .next (serveRequest p s)
  | none => takeTurn s

/-- The input that brings a word to its port (log 24). -/
def inputOfWord : PortWord → Input
  | .command w => .command w
  | .event w => .event w

end Sys2Proof.Machine
end

