-- ==== Sys2Proof/Machine/Step.lean ====
section
/-! DEFINITION. Step.lean: one step of the machine (spec/20_memory.md R61), and the placing of a word where the
next step takes it (log 24). -/

namespace Sys2Proof.Machine

/-- One atomic step (R61): a held NEXT_RECORD completes in the first step where it does not hold (R179), unless the
scheduler puts the next turn before it (R221; log 10); otherwise the next turn is taken (log 9). -/
def step (s : State) : Host.Outcome State Fault Refusal := scheduledStep s

/-- The state whose next turn brings a row's word, before any held request (log 24). -/
def State.withFetchWord (s : State) (nbits w : Nat) : State :=
  { s with inputs := ⟨inputOfWord (tableWord nbits w), true⟩ :: s.inputs }

end Sys2Proof.Machine
end

