-- ==== Sys2Proof/Machine/Assembler.lean ====
section
/-! DEFINITION. Assembler.lean: the spec's assembly syntax, one command or environment step a line, and the
pseudo-instructions (spec/30_encoding.md R89, R90). It is notation only: nothing of the machine uses it. -/

namespace Sys2Proof.Machine

/-- The value of a hexadecimal digit. -/
def hexDigit? (c : Char) : Option Nat :=
  if '0' ≤ c ∧ c ≤ '9' then some (c.toNat - '0'.toNat)
  else if 'a' ≤ c ∧ c ≤ 'f' then some (c.toNat - 'a'.toNat + 10)
  else if 'A' ≤ c ∧ c ≤ 'F' then some (c.toNat - 'A'.toNat + 10)
  else none

/-- The value of a decimal digit. -/
def decDigit? (c : Char) : Option Nat :=
  if '0' ≤ c ∧ c ≤ '9' then some (c.toNat - '0'.toNat) else none

/-- Digits to a number in a base, from a value so far; none at a character that is no digit. -/
def digits? (base : Nat) (digit? : Char → Option Nat) (acc : Nat) : List Char → Option Nat
  | [] => some acc
  | c :: rest => (digit? c).bind fun d => digits? base digit? (acc * base + d) rest

/-- A decimal integer without sign, of at least one digit. -/
def decNat? (cs : List Char) : Option Nat :=
  if cs.isEmpty then none else digits? 10 decDigit? 0 cs

/-- A hexadecimal integer after its 0x, of at least one digit. -/
def hexNat? (cs : List Char) : Option Nat :=
  if cs.isEmpty then none else digits? 16 hexDigit? 0 cs

/-- A decimal integer, optionally negative, that fits the field A (R89). -/
def arg? (cs : List Char) : Option Int :=
  let v := match cs with
    | '-' :: rest => (decNat? rest).map fun n => -(n : Int)
    | _ => (decNat? cs).map fun n => (n : Int)
  v.filter argFits

/-- A decimal or 0x hexadecimal integer 0 to 255 (R89). -/
def byte? (cs : List Char) : Option Byte :=
  let v := match cs with
    | '0' :: 'x' :: rest => hexNat? rest
    | _ => decNat? cs
  (v.filter (· < 256)).map (BitVec.ofNat 8)

/-- num / den, in units of 2^-1074, rounded to a binary64 pattern, to nearest with ties to even (R17, R89;
log 31). -/
def nearestPattern (num den : Nat) : Binary64 :=
  let floor := num / den
  let ulp := if floor < 2 ^ 53 then 1 else 2 ^ (floor.log2 - 52)
  let q := num / (den * ulp)
  let r := num % (den * ulp)
  let up := den * ulp < 2 * r ∨ (den * ulp = 2 * r ∧ q % 2 = 1)
  let m := (if up then q + 1 else q) * ulp
  if m < 2 ^ 52 then BitVec.ofNat 64 m
  else
    let e := m.log2 - 51
    if 2047 ≤ e then 0x7FF0000000000000
    else BitVec.ofNat 64 (e * 2 ^ 52 + (m / 2 ^ (e - 1) - 2 ^ 52))

/-- The binary64 value nearest to digits × 10^exp10. -/
def decimalPattern (digits : Nat) (exp10 : Int) : Binary64 :=
  if 0 ≤ exp10 then nearestPattern (digits * 10 ^ exp10.toNat * 2 ^ 1074) 1
  else nearestPattern (digits * 2 ^ 1074) (10 ^ (-exp10).toNat)

/-- A line's text up to the first of a character, and the text after it, if the character is there. -/
def cut (c : Char) (cs : List Char) : List Char × Option (List Char) :=
  match cs with
  | [] => ([], none)
  | d :: rest => if d = c then ([], some rest) else ((cut c rest).map (d :: ·) id)

/-- The exponent part of a decimal floating literal: digits with an optional sign. -/
def exponent? (cs : List Char) : Option Int :=
  match cs with
  | '-' :: rest => (decNat? rest).map fun n => -(n : Int)
  | '+' :: rest => (decNat? rest).map fun n => (n : Int)
  | _ => (decNat? cs).map fun n => (n : Int)

/-- A decimal floating literal without sign: digits, a point with digits after it, an exponent, the last two
optional. -/
def unsignedDecimal? (cs : List Char) : Option Binary64 :=
  let (mantissa, e) := cut 'e' cs
  let (whole, frac) := cut '.' mantissa
  let fracDigits := frac.getD []
  let exp10 := match e with
    | none => some 0
    | some t => exponent? t
  if whole.isEmpty then none
  else
    match decNat? (whole ++ fracDigits), exp10 with
    | some n, some x => some (decimalPattern n (x - fracDigits.length))
    | _, _ => none

/-- A brightness literal: 0x with 16 hexadecimal digits gives the pattern, a decimal floating literal the
binary64 value nearest to it (R89). -/
def brightness? (cs : List Char) : Option Binary64 :=
  match cs with
  | '0' :: 'x' :: rest => if rest.length = 16 then (hexNat? rest).map (BitVec.ofNat 64) else none
  | '-' :: rest => (unsignedDecimal? rest).map (· ||| 0x8000000000000000)
  | _ => unsignedDecimal? cs

/-- The text without the spaces at its ends. -/
def trim (cs : List Char) : List Char := ((cs.dropWhile (· = ' ')).reverse.dropWhile (· = ' ')).reverse

/-- The operands of a line, parted by commas; fuel is the text's length. -/
def operandsFuel : Nat → List Char → List (List Char)
  | 0, _ => []
  | n + 1, cs =>
    match cut ',' cs with
    | (a, none) => [trim a]
    | (a, some rest) => trim a :: operandsFuel n rest

/-- The operands of a line; an empty text has none. -/
def operands (cs : List Char) : List (List Char) :=
  if (trim cs).isEmpty then [] else operandsFuel (cs.length + 1) cs

/-- The optional bri= and a flag word, in this order, at the end of a command (R89). -/
def options? (flag : List Char) : List (List Char) → Option (Option Binary64 × Bool)
  | [] => some (none, false)
  | [o] =>
    if o = flag then some (none, true)
    else match o with
      | 'b' :: 'r' :: 'i' :: '=' :: f => (brightness? f).map fun b => (some b, false)
      | _ => none
  | [o, f] =>
    match o with
    | 'b' :: 'r' :: 'i' :: '=' :: t => if f = flag then (brightness? t).map fun b => (some b, true) else none
    | _ => none
  | _ => none

/-- The three colour operands and the options after them. -/
def colours? (mk : Byte → Byte → Byte → Option Binary64 → Bool → Instr) : List (List Char) → Option Instr
  | r :: g :: b :: opts => do
    let r ← byte? r
    let g ← byte? g
    let b ← byte? b
    let o ← options? "redraw".toList opts
    pure (mk r g b o.1 o.2)
  | _ => none

/-- A single optional flag word as the whole operand list. -/
def flag? (flag : List Char) : List (List Char) → Option Bool
  | [] => some false
  | [o] => if o = flag then some true else none
  | _ => none

/-- The instruction of a command line's mnemonic and operands, the pseudo-instructions TURN_OFF_ALL and REDRAW
among them (R89, R90). -/
def command? (mnemonic : List Char) (ops : List (List Char)) : Option Instr :=
  if mnemonic = "INIT".toList then
    match options? [] ops with
    | some (bri, false) => some (.init bri)
    | _ => none
  else if mnemonic = "SET_PIXEL".toList then
    match ops with
    | a :: rest => (arg? a).bind fun a => colours? (.setPixel a) rest
    | _ => none
  else if mnemonic = "SET_CHANNEL".toList then
    match ops with
    | a :: rest => (arg? a).bind fun a => colours? (.setChannel a) rest
    | _ => none
  else if mnemonic = "SET_ALL".toList then colours? .setAll ops
  else if mnemonic = "CLEAR_ALL".toList ∨ mnemonic = "TURN_OFF_ALL".toList then
    (flag? "redraw".toList ops).map .clearAll
  else if mnemonic = "RENDER".toList ∨ mnemonic = "REDRAW".toList then
    if ops.isEmpty then some .render else none
  else if mnemonic = "TEARDOWN".toList then (flag? "turnoff".toList ops).map .teardown
  else if mnemonic = "GET_BUTTON_SPECS".toList then if ops.isEmpty then some .getButtonSpecs else none
  else if mnemonic = "MONITOR_BUTTON".toList then
    match ops with
    | [a] => (arg? a).map .monitorButton
    | _ => none
  else if mnemonic = "NEXT_RECORD".toList then
    match ops with
    | [a] => (arg? a).map .nextRecord
    | _ => none
  else none

/-- An environment step TICK or SETTLE (R89); these have no command word. -/
def environment? (mnemonic : List Char) (ops : List (List Char)) : Option Input :=
  if mnemonic = "TICK".toList then
    match ops with
    | [p, l] =>
      match (decNat? p).filter pinFits, l with
      | some n, ['0'] => some (inputOfWord (encode (.pollTick n false)))
      | some n, ['1'] => some (inputOfWord (encode (.pollTick n true)))
      | _, _ => none
    | _ => none
  else if mnemonic = "SETTLE".toList then
    match ops with
    | [p] => ((decNat? p).bind fun n => ButtonPin.ofNumber? n).map .settle
    | _ => none
  else none

/-- One line of assembly as the input it stands for: a command's word, a tick's event word, a settle turn, or a
time @ms (R89). -/
def assembleLine (line : List Char) : Option Input :=
  match trim line with
  | '@' :: t => ((decNat? t).filter (· < 2 ^ 64)).map fun n => .clock (BitVec.ofNat 64 n)
  | cs =>
    let (mnemonic, rest) := cut ' ' cs
    let ops := operands (rest.getD [])
    match command? mnemonic ops with
    | some i => some (inputOfWord (encode i))
    | none => environment? mnemonic ops

/-- A program: its lines' inputs in order, none of them put before a ready held request. -/
def assemble (lines : List String) : Option (List Turn) :=
  lines.mapM fun l => (assembleLine l.toList).map fun x => ⟨x, false⟩

end Sys2Proof.Machine
end

