-- ==== Sys2Proof/Safety.lean ====
section
/-! DEFINITION. Safety.lean: what claims call a good state: the invariants of the block (spec/10_state.md R22 to
R42), the faulted states (spec/60_exceptions.md R219), and the premises on the environment a claim may take
(P_CLOCK_MONOTONIC, spec/10_state.md R39; no NaN brightness, spec/92 D7). -/

namespace Sys2Proof.Machine

/-- A state with any ovf = 1 is faulted and never counts as a good final state (R219). -/
def faulted (s : State) : Bool :=
  ButtonPin.all.any fun p => match s.slots.get p with
    | none => false
    | some i => i.ovf

/-- The times of a list of turns never decrease, from a given time on (R39). -/
def clockMonotonicFrom : Time → List Turn → Bool
  | _, [] => true
  | t, ⟨.clock t', _⟩ :: rest => decide (t.toNat ≤ t'.toNat) && clockMonotonicFrom t' rest
  | t, _ :: rest => clockMonotonicFrom t rest

/-- P_CLOCK_MONOTONIC, as a premise on the coming inputs (R39; log 25). -/
def clockMonotonic (s : State) : Bool := clockMonotonicFrom s.nowMs s.inputs

/-- No NaN brightness is issued, the premise claims should take (spec/92 D7). -/
def nanFree (inputs : List Turn) : Bool :=
  inputs.all fun x => match x.input with
    | .command w => !(fieldBp w && b64IsNaN (fieldBri w))
    | _ => true

/-- Pins 16 and 18 are OUTPUT and driven exactly while LC = READY (R24, R25, R105, R111). -/
def StripPinsInv (s : State) : Prop :=
  (s.lc = .ready → s.pinCfg.data = .output ∧ s.pinCfg.clock = .output ∧ s.dataQ.isSome ∧ s.clkQ.isSome) ∧
  (s.lc ≠ .ready → s.pinCfg.data = .closed ∧ s.pinCfg.clock = .closed ∧ s.dataQ = none ∧ s.clkQ = none)

/-- A render runs only while LC = READY, and a command is in progress exactly while one runs (R26, R27). -/
def ControlInv (s : State) : Prop :=
  match s.rs with
  | .idle => s.control.inProgress = none
  | .busy _ _ => s.lc = .ready ∧ s.control.inProgress.isSome

/-- The data bit on the line before write k of a render: that of the last data write (R144, R145). -/
def lastDataBit (px : Vector Pixel pixelCount) (k : Nat) : Bool :=
  if k = 0 then false else frameBit px ((k - 1) / 3)

/-- The levels of the strip pins: both low between renders, and in the phase of write k within one (R145). -/
def LevelsInv (s : State) : Prop :=
  match s.rs with
  | .idle => s.lc = .ready → s.dataQ = some false ∧ s.clkQ = some false
  | .busy k _ => s.dataQ = some (lastDataBit s.px k.val) ∧ s.clkQ = some (decide (k.val % 3 = 2))

/-- The invariant of the strip side of the block. -/
def StripInv (s : State) : Prop := StripPinsInv s ∧ ControlInv s ∧ LevelsInv s

/-- Every stored brightness is 0 to 31 (R22). -/
def BriInv (s : State) : Prop := ∀ i : Fin pixelCount, s.px[i].bri.toNat ≤ 31

/-- A queue respects P_QUEUE_CAP, and overflow needs a finite one (R14, R183, R219). -/
def QueueInv (cap : QueueCap) (i : Monitor) : Prop :=
  match cap with
  | .unbounded => i.ovf = false
  | .bounded n _ => i.queue.length ≤ n

/-- One monitor instance: its timeout is the parameter (R36), its queue within bounds, and no press is recorded
in a closed one (R178). -/
def InstanceInv (params : Params) (i : Monitor) : Prop :=
  i.idleTimeoutMs = params.idleTimeoutMs ∧ QueueInv params.queueCap i ∧ (i.st = .closed → i.lastPress = 0)

/-- Slot p: its pin is never an output, and is an input only for a MONITORING instance (R24, R173); a request
pends only at a slot that holds an instance, and others wait only behind a pending one (R42, R217). -/
def SlotInv (s : State) (p : ButtonPin) : Prop :=
  s.pinCfg.buttons.get p ≠ .output ∧
  (s.pinCfg.buttons.get p = .inputPullup → ∃ i, s.slots.get p = some i ∧ i.st = .monitoring) ∧
  (∀ i, s.slots.get p = some i → InstanceInv s.params i) ∧
  ((s.streams.get p).pending = true → (s.slots.get p).isSome) ∧
  (0 < (s.streams.get p).waiting → (s.streams.get p).pending = true)

/-- The invariant of the monitor side of the block. -/
def MonitorInv (s : State) : Prop := ∀ p, SlotInv s p

/-- The levels that a GPIO trace leaves on the two strip pins, from given ones (R25). -/
def levelsFrom (dataQ clkQ : Option Bool) : List GpioEvent → Option Bool × Option Bool
  | [] => (dataQ, clkQ)
  | .write .data level :: rest => levelsFrom (some level) clkQ rest
  | .write .clock level :: rest => levelsFrom dataQ (some level) rest
  | .close .data :: rest => levelsFrom none clkQ rest
  | .close .clock :: rest => levelsFrom dataQ none rest
  | .write (.button _) _ :: rest => levelsFrom dataQ clkQ rest
  | .close (.button _) :: rest => levelsFrom dataQ clkQ rest
  | .openPin _ _ _ :: rest => levelsFrom dataQ clkQ rest

/-- DATA_Q and CLK_Q are the levels the GPIO trace leaves (R25). -/
def TraceInv (s : State) : Prop := levelsFrom none none s.gpio = (s.dataQ, s.clkQ)

/-- The wire bits of the trace so far: those before the render in progress, then one for each clock pulse the
render has begun (R41, R144). -/
def WireSoFar (before : List Bool) (s : State) : Prop :=
  match s.rs with
  | .idle => wireBits s.gpio = some before
  | .busy k _ => wireBits s.gpio = some (before ++ (frame s.px).take ((k.val + 1) / 3))

end Sys2Proof.Machine
end

