-- ==== Sys2Proof/Certificates/Slice0/Obligations.lean ====
section
/-! DEFINITION. Obligations.lean: the statements for the provers, from the numbered rules of the spec. A statement
that rests on a choice of the model names its log entry. -/

open Sys2Proof Sys2Proof.Machine

namespace Sys2Proof.Claims

/-- A brightness operand that passes its check: omitted, or VALID (R100). -/
def BriOk (bri : Option Binary64) : Prop := ∀ x, bri = some x → validBri x = true

/-- A brightness operand that fails its check: supplied and not VALID (R100, R211). -/
def BriBad (bri : Option Binary64) : Prop := ∃ x, bri = some x ∧ validBri x = false

/-- The buffer px' is the buffer of s with the selected pixels given a colour, and the brightness ENC(x) where the
operand supplies an x; every other pixel, and every omitted brightness, is as before (R106 to R109). -/
def PaintedTo (s : State) (sel : Fin 16 → Prop) (r g b : Byte) (bri : Option Binary64)
    (px' : Vector Pixel 16) : Prop :=
  ∀ i : Fin 16,
    (sel i → px'[i].red = r ∧ px'[i].green = g ∧ px'[i].blue = b ∧
      (bri = none → px'[i].bri = s.px[i].bri) ∧ (∀ x, bri = some x → px'[i].bri = encBri x)) ∧
    (¬ sel i → px'[i] = s.px[i])

/-- The state after an answer, and nothing else. -/
def answered (port : PortId) (code : Code) (payload : Payload) (s : State) : State :=
  { s with responses := s.responses ++ [⟨port, code, payload⟩] }

/-- The state after a command has written the buffer: answered OK at once, or in the render whose end answers
(R110). -/
def finished (i : Instr) (redraw : Bool) (px' : Vector Pixel 16) (s : State) : State :=
  if redraw then
    { s with px := px', rs := .busy 0 .respondOk, control := { s.control with inProgress := some i } }
  else { s with px := px', responses := s.responses ++ [⟨.control, .ok, .none⟩] }

/-- The state after RELEASE (R111). -/
def released (s : State) : State :=
  { s with
    pinCfg := ⟨.closed, .closed, .replicate .closed⟩
    dataQ := none
    clkQ := none
    lc := if s.lc = .ready then .released else s.lc
    control := { s.control with inProgress := none }
    gpio := s.gpio ++ [.close .data, .close .clock, .close (.button .fastForward), .close (.button .playPause),
      .close (.button .rewind), .close (.button .volUp), .close (.button .volDown), .close (.button .power)]
    responses := s.responses ++ [⟨.control, .ok, .none⟩] }

/-- The state after write number k of a render that carries the bit b, with the turns in rest remaining (R144). -/
def written (k : Nat) (b : Bool) (rest : List Turn) (s : State) : State :=
  if k % 3 = 0 then { s with inputs := rest, dataQ := some b, gpio := s.gpio ++ [.write .data b] }
  else if k % 3 = 1 then { s with inputs := rest, clkQ := some true, gpio := s.gpio ++ [.write .clock true] }
  else { s with inputs := rest, clkQ := some false, gpio := s.gpio ++ [.write .clock false] }

/-- Slot p receives poll ticks, for the instance i (R173). -/
def Ticking (s : State) (p : ButtonPin) (i : Monitor) : Prop :=
  s.slots.get p = some i ∧ i.st = .monitoring ∧ s.pinCfg.get (.button p) = .inputPullup

/-- A press is recorded and more than idleTimeoutMs milliseconds have passed since it (R177). -/
def Expired (s : State) (i : Monitor) : Prop :=
  0 < i.lastPress.toNat ∧ (i.idleTimeoutMs : Int) < (s.nowMs.toNat : Int) - (i.lastPress.toNat : Int)

/-- The next step takes the turn x, and the turns in rest remain: x heads the inputs, and no held NEXT_RECORD
completes before it, because none is ready (R179) or because the scheduler puts x first (R61, R221; log 9, 10). -/
def TakesTurn (s : State) (x : Input) (rest : List Turn) : Prop :=
  ∃ early, s.inputs = ⟨x, early⟩ :: rest ∧ (early = true ∨ readySlot s = none)

/-- The next step is the control sequencer's: by its turn in the inputs, or because no turn is left and no held
NEXT_RECORD is ready (log 9). -/
def SequencerTurn (s : State) (rest : List Turn) : Prop :=
  TakesTurn s .control rest ∨ (s.inputs = [] ∧ rest = [] ∧ readySlot s = none)

/-- The command word w names slot p's stream port: OP = 0x9 and A is p's pin number (R78). -/
def NamesSlot (w : CommandWord) (p : ButtonPin) : Prop := fieldOp w = 0x9 ∧ fieldA w = (p.number : Int)

/-- The routing of R78: a word goes to slot p's stream port exactly when it names that slot, and to the control port
exactly when it names none. -/
def Routing : Prop :=
  ∀ w : CommandWord, (∀ p, portOfWord w = .stream p ↔ NamesSlot w p) ∧
    (portOfWord w = .control ↔ ∀ p, ¬ NamesSlot w p)

/-- The commands that go to the control port (R78). -/
def goesToControl : Instr → Bool
  | .pollTick _ _ => false
  | .nextRecord a => (ButtonPin.ofNumber? a).isNone
  | _ => true

/-- The instance j is the instance i later on: closing, overflow and the settle flag are never undone, and what
was latched at creation stays (R30, R33, R36, R40). -/
def Continues (i j : Monitor) : Prop :=
  (i.st = .closed → j.st = .closed) ∧ (i.ovf = true → j.ovf = true) ∧
  (i.monitoring = true → j.monitoring = true) ∧ j.startMs = i.startMs ∧ j.idleTimeoutMs = i.idleTimeoutMs

/-- Slot p waits for ever: a settled MONITORING instance with nothing queued, its pin closed, and a NEXT_RECORD
pending (R184). -/
def Hung (s : State) (p : ButtonPin) (i : Monitor) : Prop :=
  s.slots.get p = some i ∧ i.st = .monitoring ∧ i.monitoring = true ∧ i.queue = [] ∧
  s.pinCfg.get (.button p) = .closed ∧ (s.streams.get p).pending = true

/-- The table of R103: n, the smallest b with ENC(b) = n, and what exact real arithmetic gives at that b. -/
def breakpoints : List (Nat × Binary64 × Nat) :=
  [(4, 0x3FC0842108421084, 3), (5, 0x3FC4A5294A5294A5, 4), (6, 0x3FC8C6318C6318C6, 5), (7, 0x3FCCE739CE739CE7, 6)] ++
  [(8, 0x3FD0842108421084, 7), (9, 0x3FD294A5294A5295, 9), (10, 0x3FD4A5294A5294A5, 9), (11, 0x3FD6B5AD6B5AD6B6, 11)] ++
  [(12, 0x3FD8C6318C6318C6, 11), (13, 0x3FDAD6B5AD6B5AD7, 13), (14, 0x3FDCE739CE739CE7, 13), (15, 0x3FDEF7BDEF7BDEF8, 15)] ++
  [(16, 0x3FE0842108421084, 15), (17, 0x3FE18C6318C6318C, 16), (18, 0x3FE294A5294A5295, 18), (19, 0x3FE39CE739CE739D, 19)] ++
  [(20, 0x3FE4A5294A5294A5, 19), (21, 0x3FE5AD6B5AD6B5AD, 20), (22, 0x3FE6B5AD6B5AD6B6, 22), (23, 0x3FE7BDEF7BDEF7BE, 23)] ++
  [(24, 0x3FE8C6318C6318C6, 23), (25, 0x3FE9CE739CE739CE, 24), (26, 0x3FEAD6B5AD6B5AD7, 26), (27, 0x3FEBDEF7BDEF7BDF, 27)] ++
  [(28, 0x3FECE739CE739CE7, 27), (29, 0x3FEDEF7BDEF7BDEF, 28), (30, 0x3FEEF7BDEF7BDEF8, 30), (31, 0x3FF0000000000000, 31)]

end Sys2Proof.Claims

open Sys2Proof.Claims

/-! ## Encodings -/

/-- Decoding the word of a well-formed instruction gives the instruction back, for every operand the fields admit
(spec/30_encoding.md §1, §3). -/
def Obligations.DecodeOfEncodeIsIdentity : Prop :=
  ∀ i : Instr, i.wellFormed = true → decode (encode i) = .ok i

/-- What the decoder gives is well formed: A fits 32 signed bits, PIN 8 bits (R75, R81). -/
def Obligations.DecodedInstructionIsWellFormed : Prop :=
  ∀ (w : PortWord) (i : Instr), decode w = .ok i → i.wellFormed = true

/-- A command word is refused exactly when OP is 0xA to 0xF or RSV ≠ 0 (R76), and such a word at an open port (R27), the
one R78 gives it, is answered IllegalCommand and changes nothing else. That the word comes as a turn of the inputs is
the model's form (log 9), and so is a turn put before a ready held NEXT_RECORD (log 10). Ports that are taken:
ReservedWordAtATakenPort. -/
def Obligations.ReservedWordAnsweredIllegal : Prop :=
  (∀ w : CommandWord, (∃ e, decodeCommand w = .error e) ↔ (0xA ≤ (fieldOp w).toNat ∨ fieldRsv w ≠ 0)) ∧
  Routing ∧
  (∀ (s : State) (w : CommandWord) (rest : List Turn),
    TakesTurn s (.command w) rest → (0xA ≤ (fieldOp w).toNat ∨ fieldRsv w ≠ 0) →
    ((∀ p, ¬ NamesSlot w p) → portFree s = true → s.control.waiting = [] →
      step s = .next (answered .control .illegalCommand .none { s with inputs := rest })) ∧
    (∀ p, NamesSlot w p → (s.streams.get p).pending = false →
      step s = .next (answered (.stream p) .illegalCommand .none { s with inputs := rest })))

/-- A reserved word at the control port while it takes no command, or while words wait there, is held behind them
(R27, R62; log 11); one at a stream port with a pending request is answered at once, which is the model's choice
(log 13); and the sequencer's turn on a free port answers the oldest held one (R76; log 9, 10). -/
def Obligations.ReservedWordAtATakenPort : Prop :=
  (∀ (s : State) (w : CommandWord) (rest : List Turn),
    TakesTurn s (.command w) rest → (0xA ≤ (fieldOp w).toNat ∨ fieldRsv w ≠ 0) →
    ((∀ p, ¬ NamesSlot w p) → portFree s = false ∨ s.control.waiting ≠ [] → step s = .next { s with
      inputs := rest
      control := { s.control with waiting := s.control.waiting ++ [.illegal] } }) ∧
    (∀ p, NamesSlot w p → (s.streams.get p).pending = true →
      step s = .next (answered (.stream p) .illegalCommand .none { s with inputs := rest }))) ∧
  (∀ (s : State) (held : List HeldWord) (rest : List Turn), SequencerTurn s rest → portFree s = true →
    s.control.waiting = .illegal :: held →
    step s = .next (answered .control .illegalCommand .none { s with
      inputs := rest
      control := { s.control with waiting := held } }))

/-- R77: two words that agree on OP, on RSV = 0 and on the fields the command reads are the same command. -/
def Obligations.UnreadFieldsAreIgnored : Prop :=
  ∀ v w : CommandWord, fieldRsv v = 0 → fieldRsv w = 0 → fieldOp v = fieldOp w →
    ((fieldOp v).toNat ∈ [0, 1, 2, 3] → briOperand v = briOperand w) →
    ((fieldOp v).toNat ∈ [1, 2, 3] → fieldR v = fieldR w ∧ fieldG v = fieldG w ∧ fieldB v = fieldB w) →
    ((fieldOp v).toNat ∈ [1, 2, 3, 4, 6] → fieldF v = fieldF w) →
    ((fieldOp v).toNat ∈ [1, 2, 8, 9] → fieldA v = fieldA w) →
    decodeCommand v = decodeCommand w

/-- Words the spec writes out, and the commands they stand for (spec/30_encoding.md §7, spec/95 Part 2). -/
def Obligations.SpecWordsDecode : Prop :=
  decodeCommand 0x3FF00000000000000000000000000020 = .ok (.init (some 0x3FF0000000000000)) ∧
  decodeCommand 0x3FE00000000000000000000330201031 =
    .ok (.setPixel 3 0x10 0x20 0x30 (some 0x3FE0000000000000) true) ∧
  decodeCommand 0x0000000000000000FFFFFFFF00000001 = .ok (.setPixel (-1) 0 0 0 none false) ∧
  decodeCommand 0x3FD000000000000000000001FF000032 = .ok (.setChannel 1 0 0 255 (some 0x3FD0000000000000) true) ∧
  decodeCommand 0x0000000000000000000000000000FF03 = .ok (.setAll 255 0 0 none false) ∧
  decodeCommand 0x4014000000000000000000000000FF24 = .ok (.clearAll false) ∧
  decodeCommand 0x00000000000000000000000000000016 = .ok (.teardown true) ∧
  decodeCommand 0x00000000000000000000001D00000008 = .ok (.monitorButton 29) ∧
  decodeCommand 0x00000000000000000000001F00000009 = .ok (.nextRecord 31) ∧
  decodeEvent 0x011D = .ok (.pollTick 29 true)

/-- An event word gives PIN from bits 7:0 and LVL from bit 8; with a bit of 15:9 set it is refused, as no such
word comes from the environment (R81; log 17; the turn that brings it: log 9, 10). -/
def Obligations.EventWordFields : Prop :=
  ∀ w : EventWord,
    (w.toNat < 512 → decodeEvent w = .ok (.pollTick (w.toNat % 256) (decide (256 ≤ w.toNat)))) ∧
    (512 ≤ w.toNat → decodeEvent w = .error .malformedEvent ∧
      ∀ (s : State) (rest : List Turn), TakesTurn s (.event w) rest → step s = .refused .malformedEvent)

/-! ## Brightness -/

/-- The valid brightness patterns are exactly those from fl(0.1) to 1.0: no NaN, infinity, zero, subnormal or
negative value, and nothing one unit outside either end (R100's corner cases). -/
def Obligations.ValidBrightnessIsAnInterval : Prop :=
  ∀ b : Binary64, validBri b = true ↔ 0x3FB999999999999A ≤ b.toNat ∧ b.toNat ≤ 0x3FF0000000000000

/-- R102: ENC of a valid fraction is 3 to 31, the mask changes nothing, and ENC never decreases; the ends of the valid
range have the products 3.1, rounded, and 31. -/
def Obligations.EncodedBrightnessRange : Prop :=
  (∀ b : Binary64, validBri b = true → 0x3FB999999999999A ≤ b.toNat ∧ b.toNat ≤ 0x3FF0000000000000) ∧
  times31 0x3FB999999999999A / 2 ^ 1074 = 3 ∧ times31 0x3FF0000000000000 = 31 * 2 ^ 1074 ∧
  (∀ b : Binary64, validBri b = true →
    3 ≤ (encBri b).toNat ∧ (encBri b).toNat ≤ 31 ∧ (encBri b).toNat = times31 b / 2 ^ 1074) ∧
  (∀ b c : Binary64, validBri b = true → validBri c = true → b.toNat ≤ c.toNat →
    (encBri b).toNat ≤ (encBri c).toNat)

/-- R103, the breakpoints: for each n of 4 to 31 a valid b has ENC(b) ≥ n exactly from the table's pattern on; that
pattern is fl(n/31), and the exact product there has the table's floor. ENC(b) is at least 3, and 31 only for
b = 1.0. -/
def Obligations.EncodingBreakpoints : Prop :=
  (∀ nb ∈ breakpoints,
    nb.2.1 = nearestPattern (nb.1 * 2 ^ 1074) 31 ∧ 31 * b64Magnitude nb.2.1 / 2 ^ 1074 = nb.2.2 ∧
    ∀ b : Binary64, validBri b = true → (nb.1 ≤ (encBri b).toNat ↔ nb.2.1.toNat ≤ b.toNat)) ∧
  (∀ b : Binary64, validBri b = true → (3 ≤ (encBri b).toNat ∧
    ((encBri b).toNat = 31 ↔ b = 0x3FF0000000000000)))

/-! ## The strip controller -/

/-- R105, INIT: on a free control port, a bad brightness first, then READY, are answered with their errors;
otherwise both strip pins are opened and driven low, the buffer is black at the given or the default brightness,
and LC is READY. -/
def Obligations.InitOpensAndFills : Prop :=
  (∀ (bri : Option Binary64) (s : State), portFree s = true → BriBad bri →
    exec (.init bri) s = .next (answered .control .invalidBrightness .none s)) ∧
  (∀ (bri : Option Binary64) (s : State), portFree s = true → BriOk bri → s.lc = .ready →
    exec (.init bri) s = .next (answered .control .pinUnavailable .none s)) ∧
  (∀ (bri : Option Binary64) (s : State), portFree s = true → BriOk bri → s.lc ≠ .ready →
    ∃ e : Bri, (∀ x, bri = some x → e = encBri x) ∧ (bri = none → e.toNat = s.params.defaultBri.val) ∧
      exec (.init bri) s = .next { s with
        px := Vector.replicate 16 ⟨0, 0, 0, e⟩
        lc := .ready
        pinCfg := { s.pinCfg with data := .output, clock := .output }
        dataQ := some false
        clkQ := some false
        gpio := s.gpio ++ [.openPin .data .output .none, .openPin .clock .output .none, .write .data false,
          .write .clock false]
        responses := s.responses ++ [⟨.control, .ok, .none⟩] })

/-- R106 and R110, SET_PIXEL: index, brightness and life cycle are checked in this order; otherwise pixel a and no
other is written. -/
def Obligations.SetPixelWritesOnePixel : Prop :=
  ∀ (a : Int) (r g b : Byte) (bri : Option Binary64) (f : Bool) (s : State), portFree s = true →
    (a < 0 ∨ 15 < a → exec (.setPixel a r g b bri f) s = .next (answered .control .indexOutOfRange .none s)) ∧
    (0 ≤ a → a ≤ 15 → BriBad bri →
      exec (.setPixel a r g b bri f) s = .next (answered .control .invalidBrightness .none s)) ∧
    (0 ≤ a → a ≤ 15 → BriOk bri → s.lc ≠ .ready →
      exec (.setPixel a r g b bri f) s = .next (answered .control .notReady .none s)) ∧
    (0 ≤ a → a ≤ 15 → BriOk bri → s.lc = .ready →
      ∃ px', PaintedTo s (fun i => (i.val : Int) = a) r g b bri px' ∧
        exec (.setPixel a r g b bri f) s = .next (finished (.setPixel a r g b bri f) f px' s))

/-- R107 and R110, SET_CHANNEL: channel, brightness and life cycle are checked in this order; otherwise the pixels
8a to 8a + 7 and no others are written. -/
def Obligations.SetChannelWritesEightPixels : Prop :=
  ∀ (a : Int) (r g b : Byte) (bri : Option Binary64) (f : Bool) (s : State), portFree s = true →
    (a ≠ 0 → a ≠ 1 → exec (.setChannel a r g b bri f) s = .next (answered .control .invalidChannel .none s)) ∧
    (a = 0 ∨ a = 1 → BriBad bri →
      exec (.setChannel a r g b bri f) s = .next (answered .control .invalidBrightness .none s)) ∧
    (a = 0 ∨ a = 1 → BriOk bri → s.lc ≠ .ready →
      exec (.setChannel a r g b bri f) s = .next (answered .control .notReady .none s)) ∧
    (a = 0 ∨ a = 1 → BriOk bri → s.lc = .ready →
      ∃ px', PaintedTo s (fun i => ((i.val / 8 : Nat) : Int) = a) r g b bri px' ∧
        exec (.setChannel a r g b bri f) s = .next (finished (.setChannel a r g b bri f) f px' s))

/-- R108 and R110, SET_ALL: brightness and life cycle are checked in this order; otherwise all sixteen pixels are
written. -/
def Obligations.SetAllWritesEveryPixel : Prop :=
  ∀ (r g b : Byte) (bri : Option Binary64) (f : Bool) (s : State), portFree s = true →
    (BriBad bri → exec (.setAll r g b bri f) s = .next (answered .control .invalidBrightness .none s)) ∧
    (BriOk bri → s.lc ≠ .ready →
      exec (.setAll r g b bri f) s = .next (answered .control .notReady .none s)) ∧
    (BriOk bri → s.lc = .ready →
      ∃ px', PaintedTo s (fun _ => True) r g b bri px' ∧
        exec (.setAll r g b bri f) s = .next (finished (.setAll r g b bri f) f px' s))

/-- R109 and R110, CLEAR_ALL: NotReady outside READY; otherwise every colour is 0 and every brightness kept. -/
def Obligations.ClearAllKeepsBrightness : Prop :=
  ∀ (f : Bool) (s : State), portFree s = true →
    (s.lc ≠ .ready → exec (.clearAll f) s = .next (answered .control .notReady .none s)) ∧
    (s.lc = .ready →
      ∃ px', PaintedTo s (fun _ => True) 0 0 0 none px' ∧
        exec (.clearAll f) s = .next (finished (.clearAll f) f px' s))

/-- R111, TEARDOWN: never an error; with turnOffFirst in READY the colours are cleared and a render starts whose
end, the step of write 1739 (R144), releases, whichever way the sequencer has that turn, which is the model's form
(log 9); in every other case the eight pins are closed at once. -/
def Obligations.TeardownReleasesThePins : Prop :=
  ∀ (f : Bool) (s : State), portFree s = true →
    ((f = false ∨ s.lc ≠ .ready) → exec (.teardown f) s = .next (released s)) ∧
    (f = true → s.lc = .ready →
      ∃ px', PaintedTo s (fun _ => True) 0 0 0 none px' ∧
        exec (.teardown f) s = .next { s with
          px := px'
          rs := .busy 0 .release
          control := { s.control with inProgress := some (.teardown f) } }) ∧
    (∀ (k : Fin 1740) (t : State) (rest : List Turn), k.val = 1739 → t.rs = .busy k .release →
      t.lc ≠ .uninit → SequencerTurn t rest →
      step t = .next (released { t with inputs := rest, rs := .idle, gpio := t.gpio ++ [.write .clock false] }))

/-- R140, RENDER: NotReady outside READY; otherwise the render sequence starts and nothing else changes, and the
answer OK comes in the step of the last write, whichever way the sequencer has that turn (log 9). The writes:
RenderMakesOneWriteAStep. -/
def Obligations.RenderStartsTheSequence : Prop :=
  ∀ s : State, portFree s = true →
    (s.lc ≠ .ready → exec .render s = .next (answered .control .notReady .none s)) ∧
    (s.lc = .ready → exec .render s = .next { s with
      rs := .busy 0 .respondOk
      control := { s.control with inProgress := some .render } }) ∧
    (∀ (k : Fin 1740) (t : State) (rest : List Turn), k.val = 1739 → t.rs = .busy k .respondOk →
      t.lc ≠ .uninit → SequencerTurn t rest →
      step t = .next { t with
        inputs := rest
        rs := .idle
        clkQ := some false
        control := { t.control with inProgress := none }
        gpio := t.gpio ++ [.write .clock false]
        responses := t.responses ++ [⟨.control, .ok, .none⟩] })

/-- R27: while the control port takes no command, which is so whenever RS is BUSY, every command on it is held
and changes nothing else; the list of held words is the model's form (log 11). That this includes a NEXT_RECORD whose A
is no button pin, which R78 answers on the control port, is the model's deduction (log 14). -/
def Obligations.BusyPortHoldsCommands : Prop :=
  (∀ (s : State) (k : Fin 1740) (c : Continuation), s.rs = .busy k c → portFree s = false) ∧
  (∀ (i : Instr) (s : State), goesToControl i = true → portFree s = false →
    exec i s = .next { s with control := { s.control with waiting := s.control.waiting ++ [.command i] } })

/-- R210: an instruction whose answer is not OK answers no payload and changes nothing but the list of answers: no
state, no trace. -/
def Obligations.FailedCommandChangesNothing : Prop :=
  ∀ (i : Instr) (s t : State) (r : Response), exec i s = .next t → t.responses = s.responses ++ [r] →
    r.code ≠ .ok → r.payload = .none ∧ t = { s with responses := s.responses ++ [r] }

/-! ## The render -/

/-- The bit j that the render sequencer computes is FRAME(px)[j], and FRAME(px) has 580 bits (R82, R144). -/
def Obligations.FrameBitIsTheFrame : Prop :=
  ∀ px : Vector Pixel 16, (frame px).length = 580 ∧
    ∀ j, j < 580 → (frame px)[j]? = some (frameBit px j)

/-- RENDER_SEQ by SENDBYTE's mask-and-shift loop (R143) is the list of the 1740 numbered writes (R144). -/
def Obligations.RenderSequenceIsTheNumberedWrites : Prop :=
  ∀ px : Vector Pixel 16,
    renderSequence px = (List.range 1740).map fun k => .write (renderWrite px k).1 (renderWrite px k).2

/-- R147: the wire bit stream of one render, whose clock starts low, is exactly FRAME(px); for sixteen red pixels of
full brightness that is the bytes FF 00 00 FF sixteen times, between 32 and 36 zero bits. -/
def Obligations.WireStreamOfARenderIsTheFrame : Prop :=
  (∀ (px : Vector Pixel 16) (d : Option Bool), wireFrom d (some false) (renderSequence px) = some (frame px)) ∧
  frame (Vector.replicate 16 ⟨255, 0, 0, 31⟩) =
    List.replicate 32 false ++
      (List.replicate 16 (List.replicate 8 true ++ List.replicate 16 false ++ List.replicate 8 true)).flatten ++
      List.replicate 36 false

/-- R144: in BUSY(k, cont) the control sequencer's step, by its turn in the inputs or with none left (log 9), makes
write number k, with the bit k div 3 of FRAME(px) in phase 0 and the clock pulse in phases 1 and 2; it moves RS to
BUSY(k + 1, cont), or after write 1739 to IDLE with cont in the same step; and nothing else changes. -/
def Obligations.RenderMakesOneWriteAStep : Prop :=
  ∀ (s : State) (k : Fin 1740) (cont : Continuation) (rest : List Turn),
    s.rs = .busy k cont → s.lc ≠ .uninit → SequencerTurn s rest →
    ∃ b, (frame s.px)[k.val / 3]? = some b ∧
      (∀ h : k.val + 1 < 1740, step s = .next { written k.val b rest s with rs := .busy ⟨k.val + 1, h⟩ cont }) ∧
      (k.val = 1739 → cont = .release → step s = .next (released { written k.val b rest s with rs := .idle })) ∧
      (k.val = 1739 → cont = .respondOk → step s = .next { written k.val b rest s with
        rs := .idle
        control := { s.control with inProgress := none }
        responses := s.responses ++ [⟨.control, .ok, .none⟩] })

/-- A render left to itself: 1740 steps from BUSY(0, cont) make the writes of RENDER_SEQ, leave both levels low,
RS idle and the buffer unchanged, and then do cont (R143 to R146). That the sequencer has every turn when no input is
left is the model's form (log 9). -/
def Obligations.RenderRunsToCompletion : Prop :=
  ∀ (s : State) (cont : Continuation), s.rs = .busy 0 cont → s.lc ≠ .uninit → s.inputs = [] →
    readySlot s = none →
    Host.Core.run Sys2Proof.core 1740 s = .next (continueWith cont { s with
      rs := .idle
      dataQ := some false
      clkQ := some false
      gpio := s.gpio ++ renderSequence s.px })

/-- Under every interleaving, a step keeps the wire stream of the render in progress a prefix of FRAME(px), one
bit for each clock pulse begun, and the render's last step completes it (R62, R144, R147). -/
def Obligations.InterleavedRenderStreamsTheFrame : Prop :=
  ∀ (before : List Bool) (s t : State), StripInv s → TraceInv s → WireSoFar before s → step s = .next t →
    (t.rs ≠ .idle ∨ s.rs = .idle → WireSoFar before t) ∧
    (s.rs ≠ .idle → t.rs = .idle → wireBits t.gpio = some (before ++ frame s.px))

/-- R58: while RS is BUSY no step changes the buffer, and the sequencer stays where it is, or makes write k and
moves on by one, or ends after write 1739. -/
def Obligations.BusyRenderFreezesTheBuffer : Prop :=
  ∀ (s t : State) (k : Fin 1740) (c : Continuation), s.rs = .busy k c → step s = .next t →
    t.px = s.px ∧
    ((t.rs = .busy k c ∧ t.dataQ = s.dataQ ∧ t.clkQ = s.clkQ) ∨
      (∃ k' : Fin 1740, k'.val = k.val + 1 ∧ t.rs = .busy k' c ∧
        t.gpio = s.gpio ++ [.write (renderWrite s.px k.val).1 (renderWrite s.px k.val).2]) ∨
      (k.val = 1739 ∧ t.rs = .idle))

/-- After CLEAR_ALL's blackening the frame carries each pixel's brightness and no colour (R109, spec/95 W4). -/
def Obligations.ClearedFrameKeepsBrightness : Prop :=
  ∀ s : State, frame (blacken s).px =
    List.replicate 32 false ++
      s.px.toList.flatMap (fun p => bits8 (0xE0 ||| p.bri.zeroExtend 8) ++ List.replicate 24 false) ++
      List.replicate 36 false

/-! ## The button monitor -/

/-- R170: GET_BUTTON_SPECS answers the six entries in table order, in every state of the block whose control port
is free, and changes nothing. -/
def Obligations.ButtonSpecsAnswered : Prop :=
  ∀ s : State, portFree s = true →
    exec .getButtonSpecs s = .next (answered .control .ok (.buttonSpecs
      [⟨29, "FAST_FORWARD"⟩, ⟨31, "PLAY_PAUSE"⟩, ⟨33, "REWIND"⟩, ⟨36, "VOL_UP"⟩, ⟨37, "VOL_DOWN"⟩,
        ⟨32, "POWER"⟩]) s)

/-- R171 and R185, MONITOR_BUTTON: a pin that is no button, and a claimed pin, are PinUnavailable; otherwise the
pin is opened with pull-up and the slot holds a new instance, whatever it held before and whatever LC is. -/
def Obligations.MonitorButtonStartsAnInstance : Prop :=
  (∀ (a : Int) (s : State), portFree s = true → a ∉ [29, 31, 32, 33, 36, 37] →
    exec (.monitorButton a) s = .next (answered .control .pinUnavailable .none s)) ∧
  (∀ (p : ButtonPin) (s : State), portFree s = true → s.pinCfg.get (.button p) ≠ .closed →
    exec (.monitorButton p.number) s = .next (answered .control .pinUnavailable .none s)) ∧
  (∀ (p : ButtonPin) (s : State), portFree s = true → s.pinCfg.get (.button p) = .closed →
    exec (.monitorButton p.number) s = .next { s with
      pinCfg := s.pinCfg.set (.button p) .inputPullup
      slots := s.slots.set p (some
        { st := .monitoring, monitoring := false, queue := [], lastPress := 0,
          idleTimeoutMs := s.params.idleTimeoutMs, startMs := s.nowMs, ovf := false })
      gpio := s.gpio ++ [.openPin (.button p) .input .up]
      responses := s.responses ++ [⟨.control, .ok, .none⟩] })

/-- R172, the settle step: enabled for an unsettled instance from 100 ms after its start on, it sets the flag and
emits monitoring(p); where it is not enabled, a settle turn changes nothing but the turn (log 16). The turns are the
model's form (log 9, 10). -/
def Obligations.SettleAfterTheDelay : Prop :=
  ∀ (s : State) (p : ButtonPin) (rest : List Turn), TakesTurn s (.settle p) rest →
    (∀ i : Monitor, s.slots.get p = some i → i.monitoring = false →
      100 ≤ (s.nowMs.toNat : Int) - (i.startMs.toNat : Int) →
      step s = .next { s with
        slots := s.slots.set p (some { i with monitoring := true })
        signals := s.signals ++ [.monitoring p]
        inputs := rest }) ∧
    (∀ i : Monitor, s.slots.get p = some i →
      i.monitoring = true ∨ (s.nowMs.toNat : Int) - (i.startMs.toNat : Int) < 100 →
      step s = .next { s with inputs := rest }) ∧
    (s.slots.get p = none → step s = .next { s with inputs := rest })

/-- R173: outside its condition there is no poll-tick step for a pin, and a tick changes nothing (log 15). -/
def Obligations.NoTickOutsideMonitoring : Prop :=
  (∀ (pin : Nat) (level : Bool) (s : State), pin ∉ [29, 31, 32, 33, 36, 37] →
    exec (.pollTick pin level) s = .next s) ∧
  (∀ (p : ButtonPin) (level : Bool) (s : State), (∀ i, ¬ Ticking s p i) →
    exec (.pollTick p.number level) s = .next s)

/-- R174 to R176 and R182, a press: LVL = 0 appends 1, emits pinChange(p, 1) and records NOW_MS, whatever came
before. The append is that of TickQueueAppend. -/
def Obligations.PressTick : Prop :=
  ∀ (p : ButtonPin) (i : Monitor) (s : State), Ticking s p i →
    exec (.pollTick p.number false) s = .next { s with
      slots := s.slots.set p (some { appendState s.params.queueCap true i with lastPress := s.nowMs })
      signals := s.signals ++ [.pinChange p true] }

/-- R174, R175, R177 and R178, a release: LVL = 1 appends 0, emits pinChange(p, 0) and resets lastPress; when more
than idleTimeoutMs have passed since a recorded press the instance also closes, its pin is closed and end(p) is
emitted. -/
def Obligations.ReleaseTick : Prop :=
  ∀ (p : ButtonPin) (i : Monitor) (s : State), Ticking s p i →
    (¬ Expired s i → exec (.pollTick p.number true) s = .next { s with
      slots := s.slots.set p (some { appendState s.params.queueCap false i with lastPress := 0 })
      signals := s.signals ++ [.pinChange p false] }) ∧
    (Expired s i → exec (.pollTick p.number true) s = .next { s with
      slots := s.slots.set p (some { appendState s.params.queueCap false i with st := .closed, lastPress := 0 })
      pinCfg := s.pinCfg.set (.button p) .closed
      gpio := s.gpio ++ [.close (.button p)]
      signals := s.signals ++ [.pinChange p false, .ended p] })

/-- R183: with a finite P_QUEUE_CAP a tick that finds the queue full appends nothing and sets ovf; otherwise it
appends its state at the end and leaves ovf. -/
def Obligations.TickQueueAppend : Prop :=
  ∀ (i : Monitor) (v : Bool),
    appendState .unbounded v i = { i with queue := i.queue ++ [v] } ∧
    (∀ (n : Nat) (h : 0 < n), i.queue.length = n → appendState (.bounded n h) v i = { i with ovf := true }) ∧
    (∀ (n : Nat) (h : 0 < n), i.queue.length ≠ n →
      appendState (.bounded n h) v i = { i with queue := i.queue ++ [v] })

/-- R179, NEXT_RECORD at a stream port with nothing pending: NoMonitor at an empty slot; END at a closed instance,
where P_DRAIN_BEFORE_END is false, as in the spec's own rules (log 7; true: DrainBeforeEnd); held before the settle
flag or at an empty queue; otherwise the oldest state is removed and answered as a record. It does not depend on
RS. -/
def Obligations.NextRecordPullsTheOldest : Prop :=
  ∀ (p : ButtonPin) (s : State), (s.streams.get p).pending = false →
    (s.slots.get p = none →
      exec (.nextRecord p.number) s = .next (answered (.stream p) .noMonitor .none s)) ∧
    (∀ i, s.slots.get p = some i → i.st = .closed → s.params.drainBeforeEnd = false →
      exec (.nextRecord p.number) s = .next (answered (.stream p) .ended .none s)) ∧
    (∀ i, s.slots.get p = some i → i.st = .monitoring → i.monitoring = false ∨ i.queue = [] →
      exec (.nextRecord p.number) s = .next { s with
        streams := s.streams.set p { s.streams.get p with pending := true } }) ∧
    (∀ i v rest, s.slots.get p = some i → i.st = .monitoring → i.monitoring = true → i.queue = v :: rest →
      exec (.nextRecord p.number) s = .next { s with
        slots := s.slots.set p (some { i with queue := rest })
        responses := s.responses ++ [⟨.stream p, .ok, .record (record p v)⟩] })

/-- A NEXT_RECORD whose A is no button pin is answered NoMonitor on the free control port (R78, R217), and one
more on a slot with a pending request waits behind it (R42; log 12). -/
def Obligations.NextRecordElsewhere : Prop :=
  (∀ (a : Int) (s : State), portFree s = true → a ∉ [29, 31, 32, 33, 36, 37] →
    exec (.nextRecord a) s = .next (answered .control .noMonitor .none s)) ∧
  (∀ (p : ButtonPin) (s : State), (s.streams.get p).pending = true →
    exec (.nextRecord p.number) s = .next { s with
      streams := s.streams.set p ⟨true, (s.streams.get p).waiting + 1⟩ })

/-- With P_DRAIN_BEFORE_END a closed instance gives its queued records before END (spec/93 I6). -/
def Obligations.DrainBeforeEnd : Prop :=
  ∀ (p : ButtonPin) (s : State) (i : Monitor), (s.streams.get p).pending = false →
    s.params.drainBeforeEnd = true → s.slots.get p = some i → i.st = .closed →
    (i.queue = [] → exec (.nextRecord p.number) s = .next (answered (.stream p) .ended .none s)) ∧
    (∀ v rest, i.queue = v :: rest → exec (.nextRecord p.number) s = .next { s with
      slots := s.slots.set p (some { i with queue := rest })
      responses := s.responses ++ [⟨.stream p, .ok, .record (record p v)⟩] })

/-- R180: the record of each button pin is five bytes, its two digits, a comma, the state's digit and a line
feed. -/
def Obligations.RecordBytes : Prop :=
  ∀ v : Bool,
    record .fastForward v = [0x32, 0x39, 0x2C, if v then 0x31 else 0x30, 0x0A] ∧
    record .playPause v = [0x33, 0x31, 0x2C, if v then 0x31 else 0x30, 0x0A] ∧
    record .power v = [0x33, 0x32, 0x2C, if v then 0x31 else 0x30, 0x0A] ∧
    record .rewind v = [0x33, 0x33, 0x2C, if v then 0x31 else 0x30, 0x0A] ∧
    record .volUp v = [0x33, 0x36, 0x2C, if v then 0x31 else 0x30, 0x0A] ∧
    record .volDown v = [0x33, 0x37, 0x2C, if v then 0x31 else 0x30, 0x0A]

/-- A held NEXT_RECORD completes in the first step where it does not hold: the next step is the answer of the
first such slot in table order, and its port takes the next waiting request (R179; log 10, log 12), unless the
scheduler puts another turn before it (R61, R221). A turn given to a slot itself completes that slot's request, or
changes nothing while it holds or where none is pending. -/
def Obligations.HeldRequestCompletesAtOnce : Prop :=
  (∀ (s u : State) (p : ButtonPin), (s.streams.get p).pending = true → evalRequest p s = some u →
    (∀ earlier later : List ButtonPin, ButtonPin.all = earlier ++ p :: later →
      (∀ q ∈ earlier, (s.streams.get q).pending = false ∨ evalRequest q s = none) →
      (s.inputs = [] ∨ ∃ x rest, s.inputs = ⟨x, false⟩ :: rest) →
      step s = .next { u with
        streams := s.streams.set p ⟨decide (0 < (s.streams.get p).waiting), (s.streams.get p).waiting - 1⟩ }) ∧
    (∀ rest, TakesTurn s (.request p) rest →
      step s = .next { u with
        inputs := rest
        streams := s.streams.set p ⟨decide (0 < (s.streams.get p).waiting), (s.streams.get p).waiting - 1⟩ })) ∧
  (∀ (s : State) (p : ButtonPin) (rest : List Turn), TakesTurn s (.request p) rest →
    (s.streams.get p).pending = false ∨ evalRequest p s = none → step s = .next { s with inputs := rest })

/-- A press and a release within the idle timeout leave the instance MONITORING and queue 1 then 0 (R187). -/
def Obligations.ShortPressQueuesTwoRecords : Prop :=
  ∀ (p : ButtonPin) (i : Monitor) (s : State) (t : Time), Ticking s p i → s.params.queueCap = .unbounded →
    (t.toNat : Int) - (s.nowMs.toNat : Int) ≤ i.idleTimeoutMs →
    ∃ u v j, exec (.pollTick p.number false) s = .next u ∧
      exec (.pollTick p.number true) { u with nowMs := t } = .next v ∧
      v.slots.get p = some j ∧ j.st = .monitoring ∧ j.queue = i.queue ++ [true, false] ∧
      v.pinCfg = s.pinCfg ∧ v.signals = s.signals ++ [.pinChange p true, .pinChange p false]

/-- A press recorded at a time above 0 and a release after the idle timeout end the stream: end(p) is emitted, and
every NEXT_RECORD then answers END and changes nothing else (R177, R181, R187). -/
def Obligations.LongPressEndsTheStream : Prop :=
  ∀ (p : ButtonPin) (i : Monitor) (s : State) (t : Time), Ticking s p i → 0 < s.nowMs.toNat →
    (i.idleTimeoutMs : Int) < (t.toNat : Int) - (s.nowMs.toNat : Int) →
    s.params.drainBeforeEnd = false → (s.streams.get p).pending = false →
    ∃ u v, exec (.pollTick p.number false) s = .next u ∧
      exec (.pollTick p.number true) { u with nowMs := t } = .next v ∧
      v.signals = s.signals ++ [.pinChange p true, .pinChange p false, .ended p] ∧
      v.pinCfg.get (.button p) = .closed ∧
      exec (.nextRecord p.number) v = .next (answered (.stream p) .ended .none v)

/-- R184: a hung slot stays hung in every step, but for a MONITOR_BUTTON that replaces its instance. -/
def Obligations.TeardownHangIsKept : Prop :=
  ∀ (s t : State) (p : ButtonPin) (i : Monitor), Hung s p i → step s = .next t →
    Hung t p i ∨ t.slots.get p = some (newMonitor s.params.idleTimeoutMs s.nowMs)

/-! ## The whole machine -/

/-- R240: the state after reset. That no responses have been given (log 23), and that the model's own lists of held
words and of inputs are empty (log 9, 11, 33), is the model's part. -/
def Obligations.ResetState : Prop :=
  State.reset.lc = .uninit ∧ (∀ p, State.reset.pinCfg.get p = .closed) ∧ State.reset.dataQ = none ∧
  State.reset.clkQ = none ∧ State.reset.rs = .idle ∧ State.reset.control = ⟨none, []⟩ ∧
  (∀ p, State.reset.slots.get p = none) ∧ (∀ p, State.reset.streams.get p = ⟨false, 0⟩) ∧
  State.reset.gpio = [] ∧ State.reset.signals = [] ∧ State.reset.responses = [] ∧ State.reset.inputs = []

/-- When the next turn is a command word, a step is exec of the decoded command at the state without that turn: for a
word that names a slot whatever waits at the control port, for any other while no word waits there before it; and
the words go to the ports R78 gives them (R62, R78; log 9, 10, 11). -/
def Obligations.StepRunsTheArrivedCommand : Prop :=
  Routing ∧
  ∀ (s : State) (w : CommandWord) (rest : List Turn) (i : Instr), TakesTurn s (.command w) rest →
    decode (.command w) = .ok i →
    (∀ p, NamesSlot w p → step s = exec i { s with inputs := rest }) ∧
    ((∀ p, ¬ NamesSlot w p) → s.control.waiting = [] → step s = exec i { s with inputs := rest })

/-- When the next turn is an event word, a step is exec of the tick at the state without that turn (R81; log 9, 10). -/
def Obligations.StepDeliversTheTick : Prop :=
  ∀ (s : State) (w : EventWord) (rest : List Turn) (i : Instr), TakesTurn s (.event w) rest →
    decode (.event w) = .ok i → step s = exec i { s with inputs := rest }

/-- A word that arrives at the control port behind held words waits its turn, and the sequencer's turn, by the inputs
or with none left, performs the oldest of them (R62; log 9, 10, 11; a NEXT_RECORD whose A is no button pin waits too by log 14). -/
def Obligations.HeldWordsKeepTheirOrder : Prop :=
  (∀ (s : State) (w : CommandWord) (rest : List Turn) (i : Instr), TakesTurn s (.command w) rest →
    decode (.command w) = .ok i → (∀ p, ¬ NamesSlot w p) → s.control.waiting ≠ [] →
    step s = .next { s with
      inputs := rest
      control := { s.control with waiting := s.control.waiting ++ [.command i] } }) ∧
  (∀ (s : State) (i : Instr) (held : List HeldWord) (rest : List Turn), SequencerTurn s rest →
    portFree s = true → s.control.waiting = .command i :: held →
    step s = exec i { s with inputs := rest, control := { s.control with waiting := held } })

/-- The invariants hold at reset; the brightness bound there is one on the model's placeholder (log 2). -/
def Obligations.ResetMeetsTheInvariants : Prop :=
  StripInv State.reset ∧ BriInv State.reset ∧ MonitorInv State.reset ∧ TraceInv State.reset ∧
    WireSoFar [] State.reset

/-- Every step keeps the strip invariant: pins 16 and 18 are claimed and driven exactly while READY, a render runs
only then, a command is in progress exactly while one runs, and the levels are those of its next write (R24, R25,
R27, R145). -/
def Obligations.StepKeepsStripInvariant : Prop :=
  ∀ s t : State, StripInv s → step s = .next t → StripInv t

/-- Every step keeps every stored brightness in 0 to 31 (R22, R102). -/
def Obligations.StepKeepsStoredBrightness : Prop :=
  ∀ s t : State, BriInv s → step s = .next t → BriInv t

/-- Every step keeps the monitor invariant: pins, instances, queue bounds and stream ports fit together (R24, R36,
R42, R173, R183). -/
def Obligations.StepKeepsMonitorInvariant : Prop :=
  ∀ s t : State, MonitorInv s → step s = .next t → MonitorInv t

/-- Every step keeps DATA_Q and CLK_Q equal to the levels the GPIO trace leaves (R25). -/
def Obligations.StepKeepsTraceLevels : Prop :=
  ∀ s t : State, TraceInv s → step s = .next t → TraceInv t

/-- From a state that meets the strip invariant no step faults, so no pixel without a value is read (R241). -/
def Obligations.NoValueIsNeverRead : Prop :=
  ∀ (s : State) (e : Fault), StripInv s → step s ≠ .fault e

/-- An instance is never reopened, its fault flag never cleared and its settle flag never unset, except that a
MONITOR_BUTTON on a closed pin replaces it whole (R30, R33, R36, R40, R185). -/
def Obligations.InstancesOnlyMoveForward : Prop :=
  ∀ (s t : State) (p : ButtonPin) (i : Monitor), s.slots.get p = some i → step s = .next t →
    ∃ j, t.slots.get p = some j ∧
      (Continues i j ∨
        (s.pinCfg.get (.button p) = .closed ∧ j = newMonitor s.params.idleTimeoutMs s.nowMs))

/-- A queue is first in, first out: a step leaves it, appends one state at its end, removes its head, or replaces
the instance by a new one (R34, R63, R185). -/
def Obligations.QueuesAreFirstInFirstOut : Prop :=
  ∀ (s t : State) (p : ButtonPin) (i j : Monitor), s.slots.get p = some i → step s = .next t →
    t.slots.get p = some j →
    j.queue = i.queue ∨ (∃ v, j.queue = i.queue ++ [v]) ∨ (∃ v, i.queue = v :: j.queue) ∨
      j = newMonitor s.params.idleTimeoutMs s.nowMs

/-- The traces only grow, a step gives at most one answer, and the parameters never change (R31, R32, R79;
log 8). -/
def Obligations.TracesOnlyGrow : Prop :=
  ∀ s t : State, step s = .next t →
    s.gpio <+: t.gpio ∧ s.signals <+: t.signals ∧
    (t.responses = s.responses ∨ ∃ r, t.responses = s.responses ++ [r]) ∧ t.params = s.params

/-- NOW_MS takes the value the environment supplies, and changes only so (R39); the clock turns are the model's form
(log 9, 10). -/
def Obligations.ClockIsTheEnvironments : Prop :=
  (∀ (s : State) (v : Time) (rest : List Turn), TakesTurn s (.clock v) rest →
    step s = .next { s with nowMs := v, inputs := rest }) ∧
  (∀ s t : State, step s = .next t →
    t.nowMs = s.nowMs ∨
      ∃ rest, TakesTurn s (.clock t.nowMs) rest ∧ t = { s with nowMs := t.nowMs, inputs := rest })

/-- LC moves only to READY from another value, and from READY only to RELEASED (R23). -/
def Obligations.LifecycleMoves : Prop :=
  ∀ s t : State, step s = .next t →
    t.lc = s.lc ∨ (s.lc ≠ .ready ∧ t.lc = .ready) ∨ (s.lc = .ready ∧ t.lc = .released)

/-- The steps of one slot, a poll tick on it or a NEXT_RECORD on it, leave the strip and every other slot as they
were (R62, R228). -/
def Obligations.SlotStepsLeaveTheRest : Prop :=
  ∀ (p : ButtonPin) (i : Instr) (s t : State),
    (i = .nextRecord p.number ∨ ∃ level, i = .pollTick p.number level) → exec i s = .next t →
    t.px = s.px ∧ t.lc = s.lc ∧ t.rs = s.rs ∧ t.dataQ = s.dataQ ∧ t.clkQ = s.clkQ ∧ t.control = s.control ∧
    t.pinCfg.data = s.pinCfg.data ∧ t.pinCfg.clock = s.pinCfg.clock ∧ t.nowMs = s.nowMs ∧ t.inputs = s.inputs ∧
    t.params = s.params ∧
    ∀ q, q ≠ p → t.slots.get q = s.slots.get q ∧ t.streams.get q = s.streams.get q ∧
      t.pinCfg.get (.button q) = s.pinCfg.get (.button q)

/-- The strip's commands leave every monitor instance, every stream port, the signals and the time as they were;
of the button pins only TEARDOWN changes any (R111, R228). -/
def Obligations.StripCommandsLeaveTheMonitors : Prop :=
  ∀ (i : Instr) (s t : State),
    ((∃ bri, i = .init bri) ∨ (∃ a r g b bri f, i = .setPixel a r g b bri f) ∨
      (∃ a r g b bri f, i = .setChannel a r g b bri f) ∨ (∃ r g b bri f, i = .setAll r g b bri f) ∨
      (∃ f, i = .clearAll f) ∨ i = .render ∨ (∃ f, i = .teardown f) ∨ i = .getButtonSpecs) →
    exec i s = .next t →
    t.slots = s.slots ∧ t.streams = s.streams ∧ t.signals = s.signals ∧ t.nowMs = s.nowMs ∧
    t.inputs = s.inputs ∧ t.params = s.params ∧
    (t.pinCfg.buttons = s.pinCfg.buttons ∨ ∃ f, i = .teardown f)

/-- The assembler gives the spec's words for the spec's lines, pseudo-instructions and environment steps among
them (R89, R90, spec/30_encoding.md §7). The nearest binary64 of a literal, and TICK, SETTLE and @ lines as turns, rest
on log 31; that no turn is put before a ready request (early = false) is the model's choice (log 10, 31). -/
def Obligations.AssemblerGivesTheSpecsWords : Prop :=
  assemble ["INIT bri=1.0", "SET_PIXEL 3, 0x10, 0x20, 0x30, bri=0.5, redraw", "SET_PIXEL -1, 0, 0, 0",
    "TURN_OFF_ALL redraw", "REDRAW", "TEARDOWN turnoff", "@1000", "TICK 29, 1", "SETTLE 29"] =
  some (List.map (fun x => ⟨x, false⟩) [.command 0x3FF00000000000000000000000000020,
    .command 0x3FE00000000000000000000330201031, .command 0x0000000000000000FFFFFFFF00000001, .command 0x14, .command 0x05,
    .command 0x16, .clock 1000, .event 0x011D, .settle .fastForward])
end

