-- ==== Sys2Proof/Laws/Brightness.lean ====
section
/-! SUPPORT. Brightness.lean: binary64 magnitudes and their rounding keep the order of the patterns
(spec/00_scope.md R17, spec/40_strip_controller.md R100 to R103). -/

namespace Sys2Proof.Machine

/-- A magnitude rounded to a multiple of u, to nearest with ties to even. -/
def roundToMultiple (u n : Nat) : Nat :=
  if u < 2 * (n % u) ∨ (u = 2 * (n % u) ∧ n / u % 2 = 1) then (n / u + 1) * u else n / u * u

theorem roundToMultiple_bounds {u n : Nat} :
    n / u * u ≤ roundToMultiple u n ∧ roundToMultiple u n ≤ (n / u + 1) * u := by
  unfold roundToMultiple
  split
  · exact ⟨Nat.mul_le_mul_right _ (Nat.le_succ _), le_rfl⟩
  · exact ⟨le_rfl, Nat.mul_le_mul_right _ (Nat.le_succ _)⟩

theorem roundToMultiple_mono {u m n : Nat} (hu : 0 < u) (h : m ≤ n) :
    roundToMultiple u m ≤ roundToMultiple u n := by
  have hm := Nat.div_add_mod m u
  have hn := Nat.div_add_mod n u
  have hml := Nat.mod_lt m hu
  have hnl := Nat.mod_lt n hu
  rcases Nat.lt_or_eq_of_le (show m / u ≤ n / u from Nat.div_le_div_right h) with hlt | heq
  · exact le_trans roundToMultiple_bounds.2
      (le_trans (Nat.mul_le_mul_right _ hlt) roundToMultiple_bounds.1)
  · unfold roundToMultiple
    rw [← heq] at hn ⊢
    have : m % u ≤ n % u := by omega
    split
    · rw [if_pos]; omega
    · split <;> [exact Nat.mul_le_mul_right _ (Nat.le_succ _); exact le_rfl]

theorem roundNearestEven_small {n : Nat} (h : n < 2 ^ 53) : roundNearestEven n = n := if_pos h

theorem roundNearestEven_large {n : Nat} (h : 2 ^ 53 ≤ n) :
    roundNearestEven n = roundToMultiple (2 ^ (n.log2 - 52)) n := by
  unfold roundNearestEven roundToMultiple
  rw [if_neg (by omega)]

/-- Rounding keeps a magnitude between the powers of two around it. -/
theorem roundNearestEven_bounds {n : Nat} (h : 2 ^ 53 ≤ n) :
    2 ^ n.log2 ≤ roundNearestEven n ∧ roundNearestEven n ≤ 2 ^ (n.log2 + 1) := by
  have h0 : n ≠ 0 := by omega
  have hl : 53 ≤ n.log2 := (Nat.le_log2 h0).mpr h
  have h1 := Nat.log2_self_le h0
  have h2 : n < 2 ^ (n.log2 + 1) := Nat.lt_log2_self
  have hu : 0 < 2 ^ (n.log2 - 52) := Nat.pow_pos (by decide)
  rw [roundNearestEven_large h]
  have e1 : 2 ^ n.log2 = 2 ^ 52 * 2 ^ (n.log2 - 52) := by rw [← pow_add]; congr 1; omega
  have e2 : 2 ^ (n.log2 + 1) = 2 ^ 53 * 2 ^ (n.log2 - 52) := by rw [← pow_add]; congr 1; omega
  constructor
  · refine le_trans ?_ roundToMultiple_bounds.1
    rw [e1]; exact Nat.mul_le_mul_right _ ((Nat.le_div_iff_mul_le hu).mpr (e1 ▸ h1))
  · refine le_trans roundToMultiple_bounds.2 ?_
    rw [e2]; exact Nat.mul_le_mul_right _ ((Nat.div_lt_iff_lt_mul hu).mpr (e2 ▸ h2))

/-- Rounding never turns two magnitudes round. -/
theorem roundNearestEven_mono {m n : Nat} (h : m ≤ n) : roundNearestEven m ≤ roundNearestEven n := by
  by_cases hm : m < 2 ^ 53
  · by_cases hn : n < 2 ^ 53
    · rw [roundNearestEven_small hm, roundNearestEven_small hn]; exact h
    · have hn' : 2 ^ 53 ≤ n := by omega
      have : 53 ≤ n.log2 := (Nat.le_log2 (by omega)).mpr hn'
      rw [roundNearestEven_small hm]
      exact le_trans (le_of_lt hm)
        (le_trans (Nat.pow_le_pow_right (by decide) this) (roundNearestEven_bounds hn').1)
  · have hm' : 2 ^ 53 ≤ m := by omega
    have hn' : 2 ^ 53 ≤ n := by omega
    have hl : m.log2 ≤ n.log2 := (Nat.le_log2 (by omega)).mpr (le_trans (Nat.log2_self_le (by omega)) h)
    rcases Nat.lt_or_eq_of_le hl with hlt | heq
    · exact le_trans (roundNearestEven_bounds hm').2
        (le_trans (Nat.pow_le_pow_right (by decide) hlt) (roundNearestEven_bounds hn').1)
    · rw [roundNearestEven_large hm', roundNearestEven_large hn', heq]
      exact roundToMultiple_mono (Nat.pow_pos (by decide)) h

/-- The fields of a pattern, by arithmetic on its number. -/
theorem b64Exp_eq (b : Binary64) : b64Exp b = b.toNat / 2 ^ 52 % 2 ^ 11 := by
  simp [b64Exp, Nat.shiftRight_eq_div_pow]

theorem b64Frac_eq (b : Binary64) : b64Frac b = b.toNat % 2 ^ 52 := by
  simp [b64Frac]

theorem b64Neg_eq (b : Binary64) : b64Neg b = decide (2 ^ 63 ≤ b.toNat) := by
  have hlt := b.isLt
  rw [b64Neg, BitVec.getLsbD, Nat.testBit_eq_decide_div_mod_eq]
  by_cases h : 2 ^ 63 ≤ b.toNat
  · simp only [h, decide_true, decide_eq_true_eq]; omega
  · simp only [h, decide_false, decide_eq_false_iff_not]; omega

/-- The magnitudes of patterns with sign 0 are in the order of the patterns. -/
theorem b64Magnitude_mono {b c : Binary64} (hb : b.toNat < 2 ^ 63) (hc : c.toNat < 2 ^ 63)
    (h : b.toNat ≤ c.toNat) : b64Magnitude b ≤ b64Magnitude c := by
  have e1 : b64Exp b = b.toNat / 2 ^ 52 := by rw [b64Exp_eq]; omega
  have e2 : b64Exp c = c.toNat / 2 ^ 52 := by rw [b64Exp_eq]; omega
  have f1 := b64Frac_eq b
  have f2 := b64Frac_eq c
  have l1 : b64Frac b < 2 ^ 52 := by omega
  have he : b64Exp b ≤ b64Exp c := by rw [e1, e2]; exact Nat.div_le_div_right h
  have hf : b64Exp b = b64Exp c → b64Frac b ≤ b64Frac c := by omega
  unfold b64Magnitude
  split
  · split
    · omega
    · have : 1 ≤ 2 ^ (b64Exp c - 1) := Nat.one_le_two_pow
      nlinarith
  · rw [if_neg (by omega)]
    rcases Nat.lt_or_eq_of_le he with hlt | heq
    · calc _ ≤ 2 ^ 53 * 2 ^ (b64Exp b - 1) := Nat.mul_le_mul_right _ (by omega)
        _ = 2 ^ 52 * 2 ^ (b64Exp b) := by rw [← pow_add, ← pow_add]; congr 1; omega
        _ ≤ 2 ^ 52 * 2 ^ (b64Exp c - 1) :=
          Nat.mul_le_mul_left _ (Nat.pow_le_pow_right (by decide) (by omega))
        _ ≤ _ := Nat.mul_le_mul_right _ (by omega)
    · rw [heq]; exact Nat.mul_le_mul_right _ (by omega)

/-- The product 31.0 × b keeps the order of the patterns with sign 0. -/
theorem times31_mono {b c : Binary64} (hb : b.toNat < 2 ^ 63) (hc : c.toNat < 2 ^ 63) (h : b.toNat ≤ c.toNat) :
    times31 b ≤ times31 c := by
  have := b64Magnitude_mono hb hc h
  have h31 : 31 * b64Magnitude b ≤ 31 * b64Magnitude c := by omega
  exact roundNearestEven_mono h31

end Sys2Proof.Machine
end

