-- ==== Sys2Proof/Laws/Decode.lean ====
section
/-! SUPPORT. Decode.lean: the fields of a word put together from fields, one lemma a field (spec/30_encoding.md R70),
and the fields of an event word (R81). -/

namespace Sys2Proof

@[simp] theorem commandWord_op (op : BitVec 4) (f : Bool) (bri : Option Binary64) (r g b : Byte) (a : Int) :
    fieldOp (commandWord op f bri r g b a) = op := by
  unfold fieldOp commandWord
  rw [BitVec.extractLsb'_append_eq_of_add_le (by omega)]
  exact BitVec.extractLsb'_eq_self

@[simp] theorem commandWord_f (op : BitVec 4) (f : Bool) (bri : Option Binary64) (r g b : Byte) (a : Int) :
    fieldF (commandWord op f bri r g b a) = f := by
  simp only [fieldF, commandWord, BitVec.getLsbD_append]
  simp

@[simp] theorem commandWord_bp (op : BitVec 4) (f : Bool) (bri : Option Binary64) (r g b : Byte) (a : Int) :
    fieldBp (commandWord op f bri r g b a) = bri.isSome := by
  simp only [fieldBp, commandWord, BitVec.getLsbD_append]
  simp

@[simp] theorem commandWord_rsv (op : BitVec 4) (f : Bool) (bri : Option Binary64) (r g b : Byte) (a : Int) :
    fieldRsv (commandWord op f bri r g b a) = 0 := by
  unfold fieldRsv commandWord
  iterate 3 rw [BitVec.extractLsb'_append_eq_of_le (by omega)]
  rw [BitVec.extractLsb'_append_eq_of_add_le (by omega)]
  exact BitVec.extractLsb'_eq_self

@[simp] theorem commandWord_r (op : BitVec 4) (f : Bool) (bri : Option Binary64) (r g b : Byte) (a : Int) :
    fieldR (commandWord op f bri r g b a) = r := by
  unfold fieldR commandWord
  iterate 4 rw [BitVec.extractLsb'_append_eq_of_le (by omega)]
  rw [BitVec.extractLsb'_append_eq_of_add_le (by omega)]
  exact BitVec.extractLsb'_eq_self

@[simp] theorem commandWord_g (op : BitVec 4) (f : Bool) (bri : Option Binary64) (r g b : Byte) (a : Int) :
    fieldG (commandWord op f bri r g b a) = g := by
  unfold fieldG commandWord
  iterate 5 rw [BitVec.extractLsb'_append_eq_of_le (by omega)]
  rw [BitVec.extractLsb'_append_eq_of_add_le (by omega)]
  exact BitVec.extractLsb'_eq_self

@[simp] theorem commandWord_b (op : BitVec 4) (f : Bool) (bri : Option Binary64) (r g b : Byte) (a : Int) :
    fieldB (commandWord op f bri r g b a) = b := by
  unfold fieldB commandWord
  iterate 6 rw [BitVec.extractLsb'_append_eq_of_le (by omega)]
  rw [BitVec.extractLsb'_append_eq_of_add_le (by omega)]
  exact BitVec.extractLsb'_eq_self

@[simp] theorem commandWord_a (op : BitVec 4) (f : Bool) (bri : Option Binary64) (r g b : Byte) (a : Int) :
    fieldA (commandWord op f bri r g b a) = (BitVec.ofInt 32 a).toInt := by
  unfold fieldA commandWord
  iterate 7 rw [BitVec.extractLsb'_append_eq_of_le (by omega)]
  rw [BitVec.extractLsb'_append_eq_of_add_le (by omega)]
  exact congrArg BitVec.toInt BitVec.extractLsb'_eq_self

@[simp] theorem commandWord_bri (op : BitVec 4) (f : Bool) (bri : Option Binary64) (r g b : Byte) (a : Int) :
    fieldBri (commandWord op f bri r g b a) = bri.getD 0 := by
  unfold fieldBri commandWord
  iterate 8 rw [BitVec.extractLsb'_append_eq_of_le (by omega)]
  exact BitVec.extractLsb'_eq_self

@[simp] theorem commandWord_briOperand (op : BitVec 4) (f : Bool) (bri : Option Binary64) (r g b : Byte) (a : Int) :
    briOperand (commandWord op f bri r g b a) = bri := by
  cases bri <;> simp [briOperand]

/-- A fitting argument is read back from its field. -/
theorem toInt_ofInt_of_argFits {a : Int} (h : argFits a = true) : (BitVec.ofInt 32 a).toInt = a := by
  have h' : -2147483648 ≤ a ∧ a ≤ 2147483647 := by simpa [argFits] using h
  rw [BitVec.toInt_ofInt]
  apply Int.bmod_eq_of_le <;> omega

/-- What field A holds always fits. -/
theorem argFits_fieldA (w : CommandWord) : argFits (fieldA w) = true := by
  have h1 : -2147483648 ≤ (w.extractLsb' 32 32).toInt := BitVec.le_toInt _
  have h2 : (w.extractLsb' 32 32).toInt < 2147483648 := BitVec.toInt_lt
  exact decide_eq_true ⟨h1, Int.le_of_lt_add_one h2⟩

/-- The fields of an event word, by arithmetic on its number. -/
theorem event_reserved_iff (w : EventWord) : w.extractLsb' 9 7 = 0 ↔ w.toNat < 512 := by
  rw [← BitVec.toNat_inj, BitVec.extractLsb'_toNat, Nat.shiftRight_eq_div_pow]
  have := w.isLt
  simp only [BitVec.ofNat_eq_ofNat, BitVec.toNat_ofNat]
  omega

theorem event_pin (w : EventWord) : (w.extractLsb' 0 8).toNat = w.toNat % 256 := by
  simp

theorem event_level (w : EventWord) (h : w.toNat < 512) : w.getLsbD 8 = decide (256 ≤ w.toNat) := by
  rw [BitVec.getLsbD, Nat.testBit_eq_decide_div_mod_eq]
  by_cases h' : 256 ≤ w.toNat <;> simp [h'] <;> omega

/-- The fields of an event word put together from its fields. -/
theorem eventWord_reserved (level : Bool) (pin : Nat) :
    ((0 : BitVec 7) ++ BitVec.ofBool level ++ BitVec.ofNat 8 pin).extractLsb' 9 7 = 0 := by
  iterate 2 rw [BitVec.extractLsb'_append_eq_of_le (by omega)]
  exact BitVec.extractLsb'_eq_self

theorem eventWord_pin (level : Bool) (pin : Nat) :
    ((0 : BitVec 7) ++ BitVec.ofBool level ++ BitVec.ofNat 8 pin).extractLsb' 0 8 = BitVec.ofNat 8 pin := by
  rw [BitVec.extractLsb'_append_eq_of_add_le (by omega)]
  exact BitVec.extractLsb'_eq_self

theorem eventWord_level (level : Bool) (pin : Nat) :
    ((0 : BitVec 7) ++ BitVec.ofBool level ++ BitVec.ofNat 8 pin).getLsbD 8 = level := by
  simp only [BitVec.getLsbD_append]
  simp

end Sys2Proof
end

