-- ==== Sys2Proof/Laws/State.lean ====
section
/-! SUPPORT. State.lean: the small lemmas of the state: reading a per-pin map after a write, and one lemma for each
field after each shared operation, so that no later proof unfolds a record update. -/

namespace Sys2Proof.Machine

@[simp] theorem PerButton.get_replicate {α : Type} (x : α) (p : ButtonPin) : (PerButton.replicate x).get p = x := by
  cases p <;> rfl

@[simp] theorem PerButton.get_set_same {α : Type} (m : PerButton α) (p : ButtonPin) (x : α) :
    (m.set p x).get p = x := by cases p <;> rfl

@[simp] theorem PerButton.get_set_other {α : Type} (m : PerButton α) {p q : ButtonPin} (x : α) (h : q ≠ p) :
    (m.set p x).get q = m.get q := by cases p <;> cases q <;> first | rfl | exact absurd rfl h

theorem PerButton.get_set {α : Type} (m : PerButton α) (p q : ButtonPin) (x : α) :
    (m.set p x).get q = if q = p then x else m.get q := by
  by_cases h : q = p
  · subst h; simp
  · simp [h]

theorem PerButton.ext_get {α : Type} {m n : PerButton α} (h : ∀ p, m.get p = n.get p) : m = n := by
  cases m; cases n
  simp only [PerButton.mk.injEq]
  exact ⟨h .fastForward, h .playPause, h .rewind, h .volUp, h .volDown, h .power⟩

@[simp] theorem PinConfigs.get_data (m : PinConfigs) : m.get .data = m.data := rfl
@[simp] theorem PinConfigs.get_clock (m : PinConfigs) : m.get .clock = m.clock := rfl
@[simp] theorem PinConfigs.get_button (m : PinConfigs) (p : ButtonPin) : m.get (.button p) = m.buttons.get p := rfl
@[simp] theorem PinConfigs.set_data_data (m : PinConfigs) (c : PinConfig) : (m.set .data c).data = c := rfl
@[simp] theorem PinConfigs.set_data_clock (m : PinConfigs) (c : PinConfig) : (m.set .data c).clock = m.clock := rfl
@[simp] theorem PinConfigs.set_data_buttons (m : PinConfigs) (c : PinConfig) :
    (m.set .data c).buttons = m.buttons := rfl
@[simp] theorem PinConfigs.set_clock_data (m : PinConfigs) (c : PinConfig) : (m.set .clock c).data = m.data := rfl
@[simp] theorem PinConfigs.set_clock_clock (m : PinConfigs) (c : PinConfig) : (m.set .clock c).clock = c := rfl
@[simp] theorem PinConfigs.set_clock_buttons (m : PinConfigs) (c : PinConfig) :
    (m.set .clock c).buttons = m.buttons := rfl
@[simp] theorem PinConfigs.set_button_data (m : PinConfigs) (p : ButtonPin) (c : PinConfig) :
    (m.set (.button p) c).data = m.data := rfl
@[simp] theorem PinConfigs.set_button_clock (m : PinConfigs) (p : ButtonPin) (c : PinConfig) :
    (m.set (.button p) c).clock = m.clock := rfl
@[simp] theorem PinConfigs.set_button_buttons (m : PinConfigs) (p : ButtonPin) (c : PinConfig) :
    (m.set (.button p) c).buttons = m.buttons.set p c := rfl

/-! gpioOpen -/

@[simp] theorem gpioOpen_px (p : Pin) (mode : GpioMode) (pull : Pull) (s : State) :
    (gpioOpen p mode pull s).px = s.px := rfl
@[simp] theorem gpioOpen_lc (p : Pin) (mode : GpioMode) (pull : Pull) (s : State) :
    (gpioOpen p mode pull s).lc = s.lc := rfl
@[simp] theorem gpioOpen_pinCfg (p : Pin) (mode : GpioMode) (pull : Pull) (s : State) :
    (gpioOpen p mode pull s).pinCfg = s.pinCfg.set p (configOfMode mode) := rfl
@[simp] theorem gpioOpen_dataQ (p : Pin) (mode : GpioMode) (pull : Pull) (s : State) :
    (gpioOpen p mode pull s).dataQ = s.dataQ := rfl
@[simp] theorem gpioOpen_clkQ (p : Pin) (mode : GpioMode) (pull : Pull) (s : State) :
    (gpioOpen p mode pull s).clkQ = s.clkQ := rfl
@[simp] theorem gpioOpen_rs (p : Pin) (mode : GpioMode) (pull : Pull) (s : State) :
    (gpioOpen p mode pull s).rs = s.rs := rfl
@[simp] theorem gpioOpen_control (p : Pin) (mode : GpioMode) (pull : Pull) (s : State) :
    (gpioOpen p mode pull s).control = s.control := rfl
@[simp] theorem gpioOpen_slots (p : Pin) (mode : GpioMode) (pull : Pull) (s : State) :
    (gpioOpen p mode pull s).slots = s.slots := rfl
@[simp] theorem gpioOpen_streams (p : Pin) (mode : GpioMode) (pull : Pull) (s : State) :
    (gpioOpen p mode pull s).streams = s.streams := rfl
@[simp] theorem gpioOpen_gpio (p : Pin) (mode : GpioMode) (pull : Pull) (s : State) :
    (gpioOpen p mode pull s).gpio = s.gpio ++ [.openPin p mode pull] := rfl
@[simp] theorem gpioOpen_signals (p : Pin) (mode : GpioMode) (pull : Pull) (s : State) :
    (gpioOpen p mode pull s).signals = s.signals := rfl
@[simp] theorem gpioOpen_responses (p : Pin) (mode : GpioMode) (pull : Pull) (s : State) :
    (gpioOpen p mode pull s).responses = s.responses := rfl
@[simp] theorem gpioOpen_nowMs (p : Pin) (mode : GpioMode) (pull : Pull) (s : State) :
    (gpioOpen p mode pull s).nowMs = s.nowMs := rfl
@[simp] theorem gpioOpen_inputs (p : Pin) (mode : GpioMode) (pull : Pull) (s : State) :
    (gpioOpen p mode pull s).inputs = s.inputs := rfl
@[simp] theorem gpioOpen_params (p : Pin) (mode : GpioMode) (pull : Pull) (s : State) :
    (gpioOpen p mode pull s).params = s.params := rfl

/-! gpioClose -/

@[simp] theorem gpioClose_px (p : Pin) (s : State) : (gpioClose p s).px = s.px := rfl
@[simp] theorem gpioClose_lc (p : Pin) (s : State) : (gpioClose p s).lc = s.lc := rfl
@[simp] theorem gpioClose_pinCfg (p : Pin) (s : State) : (gpioClose p s).pinCfg = s.pinCfg.set p .closed := rfl
@[simp] theorem gpioClose_dataQ (p : Pin) (s : State) : (gpioClose p s).dataQ = s.dataQ := rfl
@[simp] theorem gpioClose_clkQ (p : Pin) (s : State) : (gpioClose p s).clkQ = s.clkQ := rfl
@[simp] theorem gpioClose_rs (p : Pin) (s : State) : (gpioClose p s).rs = s.rs := rfl
@[simp] theorem gpioClose_control (p : Pin) (s : State) : (gpioClose p s).control = s.control := rfl
@[simp] theorem gpioClose_slots (p : Pin) (s : State) : (gpioClose p s).slots = s.slots := rfl
@[simp] theorem gpioClose_streams (p : Pin) (s : State) : (gpioClose p s).streams = s.streams := rfl
@[simp] theorem gpioClose_gpio (p : Pin) (s : State) : (gpioClose p s).gpio = s.gpio ++ [.close p] := rfl
@[simp] theorem gpioClose_signals (p : Pin) (s : State) : (gpioClose p s).signals = s.signals := rfl
@[simp] theorem gpioClose_responses (p : Pin) (s : State) : (gpioClose p s).responses = s.responses := rfl
@[simp] theorem gpioClose_nowMs (p : Pin) (s : State) : (gpioClose p s).nowMs = s.nowMs := rfl
@[simp] theorem gpioClose_inputs (p : Pin) (s : State) : (gpioClose p s).inputs = s.inputs := rfl
@[simp] theorem gpioClose_params (p : Pin) (s : State) : (gpioClose p s).params = s.params := rfl

/-! gpioWrite -/

@[simp] theorem gpioWrite_px (p : Pin) (level : Bool) (s : State) :
    (gpioWrite p level s).px = s.px := by cases p <;> rfl
@[simp] theorem gpioWrite_lc (p : Pin) (level : Bool) (s : State) :
    (gpioWrite p level s).lc = s.lc := by cases p <;> rfl
@[simp] theorem gpioWrite_pinCfg (p : Pin) (level : Bool) (s : State) :
    (gpioWrite p level s).pinCfg = s.pinCfg := by cases p <;> rfl
@[simp] theorem gpioWrite_rs (p : Pin) (level : Bool) (s : State) :
    (gpioWrite p level s).rs = s.rs := by cases p <;> rfl
@[simp] theorem gpioWrite_control (p : Pin) (level : Bool) (s : State) :
    (gpioWrite p level s).control = s.control := by cases p <;> rfl
@[simp] theorem gpioWrite_slots (p : Pin) (level : Bool) (s : State) :
    (gpioWrite p level s).slots = s.slots := by cases p <;> rfl
@[simp] theorem gpioWrite_streams (p : Pin) (level : Bool) (s : State) :
    (gpioWrite p level s).streams = s.streams := by cases p <;> rfl
@[simp] theorem gpioWrite_gpio (p : Pin) (level : Bool) (s : State) :
    (gpioWrite p level s).gpio = s.gpio ++ [.write p level] := by cases p <;> rfl
@[simp] theorem gpioWrite_signals (p : Pin) (level : Bool) (s : State) :
    (gpioWrite p level s).signals = s.signals := by cases p <;> rfl
@[simp] theorem gpioWrite_responses (p : Pin) (level : Bool) (s : State) :
    (gpioWrite p level s).responses = s.responses := by cases p <;> rfl
@[simp] theorem gpioWrite_nowMs (p : Pin) (level : Bool) (s : State) :
    (gpioWrite p level s).nowMs = s.nowMs := by cases p <;> rfl
@[simp] theorem gpioWrite_inputs (p : Pin) (level : Bool) (s : State) :
    (gpioWrite p level s).inputs = s.inputs := by cases p <;> rfl
@[simp] theorem gpioWrite_params (p : Pin) (level : Bool) (s : State) :
    (gpioWrite p level s).params = s.params := by cases p <;> rfl
@[simp] theorem gpioWrite_data_dataQ (level : Bool) (s : State) : (gpioWrite .data level s).dataQ = some level := rfl
@[simp] theorem gpioWrite_data_clkQ (level : Bool) (s : State) : (gpioWrite .data level s).clkQ = s.clkQ := rfl
@[simp] theorem gpioWrite_clock_dataQ (level : Bool) (s : State) : (gpioWrite .clock level s).dataQ = s.dataQ := rfl
@[simp] theorem gpioWrite_clock_clkQ (level : Bool) (s : State) : (gpioWrite .clock level s).clkQ = some level := rfl
@[simp] theorem gpioWrite_button_dataQ (q : ButtonPin) (level : Bool) (s : State) : (gpioWrite (.button q) level s).dataQ = s.dataQ := rfl
@[simp] theorem gpioWrite_button_clkQ (q : ButtonPin) (level : Bool) (s : State) : (gpioWrite (.button q) level s).clkQ = s.clkQ := rfl

/-! emit -/

@[simp] theorem emit_px (sig : Signal) (s : State) : (emit sig s).px = s.px := rfl
@[simp] theorem emit_lc (sig : Signal) (s : State) : (emit sig s).lc = s.lc := rfl
@[simp] theorem emit_pinCfg (sig : Signal) (s : State) : (emit sig s).pinCfg = s.pinCfg := rfl
@[simp] theorem emit_dataQ (sig : Signal) (s : State) : (emit sig s).dataQ = s.dataQ := rfl
@[simp] theorem emit_clkQ (sig : Signal) (s : State) : (emit sig s).clkQ = s.clkQ := rfl
@[simp] theorem emit_rs (sig : Signal) (s : State) : (emit sig s).rs = s.rs := rfl
@[simp] theorem emit_control (sig : Signal) (s : State) : (emit sig s).control = s.control := rfl
@[simp] theorem emit_slots (sig : Signal) (s : State) : (emit sig s).slots = s.slots := rfl
@[simp] theorem emit_streams (sig : Signal) (s : State) : (emit sig s).streams = s.streams := rfl
@[simp] theorem emit_gpio (sig : Signal) (s : State) : (emit sig s).gpio = s.gpio := rfl
@[simp] theorem emit_signals (sig : Signal) (s : State) : (emit sig s).signals = s.signals ++ [sig] := rfl
@[simp] theorem emit_responses (sig : Signal) (s : State) : (emit sig s).responses = s.responses := rfl
@[simp] theorem emit_nowMs (sig : Signal) (s : State) : (emit sig s).nowMs = s.nowMs := rfl
@[simp] theorem emit_inputs (sig : Signal) (s : State) : (emit sig s).inputs = s.inputs := rfl
@[simp] theorem emit_params (sig : Signal) (s : State) : (emit sig s).params = s.params := rfl

/-! respond -/

@[simp] theorem respond_px (port : PortId) (code : Code) (payload : Payload) (s : State) :
    (respond port code payload s).px = s.px := rfl
@[simp] theorem respond_lc (port : PortId) (code : Code) (payload : Payload) (s : State) :
    (respond port code payload s).lc = s.lc := rfl
@[simp] theorem respond_pinCfg (port : PortId) (code : Code) (payload : Payload) (s : State) :
    (respond port code payload s).pinCfg = s.pinCfg := rfl
@[simp] theorem respond_dataQ (port : PortId) (code : Code) (payload : Payload) (s : State) :
    (respond port code payload s).dataQ = s.dataQ := rfl
@[simp] theorem respond_clkQ (port : PortId) (code : Code) (payload : Payload) (s : State) :
    (respond port code payload s).clkQ = s.clkQ := rfl
@[simp] theorem respond_rs (port : PortId) (code : Code) (payload : Payload) (s : State) :
    (respond port code payload s).rs = s.rs := rfl
@[simp] theorem respond_control (port : PortId) (code : Code) (payload : Payload) (s : State) :
    (respond port code payload s).control = s.control := rfl
@[simp] theorem respond_slots (port : PortId) (code : Code) (payload : Payload) (s : State) :
    (respond port code payload s).slots = s.slots := rfl
@[simp] theorem respond_streams (port : PortId) (code : Code) (payload : Payload) (s : State) :
    (respond port code payload s).streams = s.streams := rfl
@[simp] theorem respond_gpio (port : PortId) (code : Code) (payload : Payload) (s : State) :
    (respond port code payload s).gpio = s.gpio := rfl
@[simp] theorem respond_signals (port : PortId) (code : Code) (payload : Payload) (s : State) :
    (respond port code payload s).signals = s.signals := rfl
@[simp] theorem respond_responses (port : PortId) (code : Code) (payload : Payload) (s : State) :
    (respond port code payload s).responses = s.responses ++ [⟨port, code, payload⟩] := rfl
@[simp] theorem respond_nowMs (port : PortId) (code : Code) (payload : Payload) (s : State) :
    (respond port code payload s).nowMs = s.nowMs := rfl
@[simp] theorem respond_inputs (port : PortId) (code : Code) (payload : Payload) (s : State) :
    (respond port code payload s).inputs = s.inputs := rfl
@[simp] theorem respond_params (port : PortId) (code : Code) (payload : Payload) (s : State) :
    (respond port code payload s).params = s.params := rfl

/-! raiseError -/

@[simp] theorem raiseError_px (port : PortId) (code : Code) (s : State) : (raiseError port code s).px = s.px := rfl
@[simp] theorem raiseError_lc (port : PortId) (code : Code) (s : State) : (raiseError port code s).lc = s.lc := rfl
@[simp] theorem raiseError_pinCfg (port : PortId) (code : Code) (s : State) :
    (raiseError port code s).pinCfg = s.pinCfg := rfl
@[simp] theorem raiseError_dataQ (port : PortId) (code : Code) (s : State) :
    (raiseError port code s).dataQ = s.dataQ := rfl
@[simp] theorem raiseError_clkQ (port : PortId) (code : Code) (s : State) :
    (raiseError port code s).clkQ = s.clkQ := rfl
@[simp] theorem raiseError_rs (port : PortId) (code : Code) (s : State) : (raiseError port code s).rs = s.rs := rfl
@[simp] theorem raiseError_control (port : PortId) (code : Code) (s : State) :
    (raiseError port code s).control = s.control := rfl
@[simp] theorem raiseError_slots (port : PortId) (code : Code) (s : State) :
    (raiseError port code s).slots = s.slots := rfl
@[simp] theorem raiseError_streams (port : PortId) (code : Code) (s : State) :
    (raiseError port code s).streams = s.streams := rfl
@[simp] theorem raiseError_gpio (port : PortId) (code : Code) (s : State) :
    (raiseError port code s).gpio = s.gpio := rfl
@[simp] theorem raiseError_signals (port : PortId) (code : Code) (s : State) :
    (raiseError port code s).signals = s.signals := rfl
@[simp] theorem raiseError_responses (port : PortId) (code : Code) (s : State) :
    (raiseError port code s).responses = s.responses ++ [⟨port, code, .none⟩] := rfl
@[simp] theorem raiseError_nowMs (port : PortId) (code : Code) (s : State) :
    (raiseError port code s).nowMs = s.nowMs := rfl
@[simp] theorem raiseError_inputs (port : PortId) (code : Code) (s : State) :
    (raiseError port code s).inputs = s.inputs := rfl
@[simp] theorem raiseError_params (port : PortId) (code : Code) (s : State) :
    (raiseError port code s).params = s.params := rfl

/-! respondDone -/

@[simp] theorem respondDone_px (s : State) : (respondDone s).px = s.px := rfl
@[simp] theorem respondDone_lc (s : State) : (respondDone s).lc = s.lc := rfl
@[simp] theorem respondDone_pinCfg (s : State) : (respondDone s).pinCfg = s.pinCfg := rfl
@[simp] theorem respondDone_dataQ (s : State) : (respondDone s).dataQ = s.dataQ := rfl
@[simp] theorem respondDone_clkQ (s : State) : (respondDone s).clkQ = s.clkQ := rfl
@[simp] theorem respondDone_rs (s : State) : (respondDone s).rs = s.rs := rfl
@[simp] theorem respondDone_control (s : State) :
    (respondDone s).control = { s.control with inProgress := none } := rfl
@[simp] theorem respondDone_slots (s : State) : (respondDone s).slots = s.slots := rfl
@[simp] theorem respondDone_streams (s : State) : (respondDone s).streams = s.streams := rfl
@[simp] theorem respondDone_gpio (s : State) : (respondDone s).gpio = s.gpio := rfl
@[simp] theorem respondDone_signals (s : State) : (respondDone s).signals = s.signals := rfl
@[simp] theorem respondDone_responses (s : State) :
    (respondDone s).responses = s.responses ++ [⟨.control, .ok, .none⟩] := rfl
@[simp] theorem respondDone_nowMs (s : State) : (respondDone s).nowMs = s.nowMs := rfl
@[simp] theorem respondDone_inputs (s : State) : (respondDone s).inputs = s.inputs := rfl
@[simp] theorem respondDone_params (s : State) : (respondDone s).params = s.params := rfl

/-! holdWord -/

@[simp] theorem holdWord_px (w : HeldWord) (s : State) : (holdWord w s).px = s.px := rfl
@[simp] theorem holdWord_lc (w : HeldWord) (s : State) : (holdWord w s).lc = s.lc := rfl
@[simp] theorem holdWord_pinCfg (w : HeldWord) (s : State) : (holdWord w s).pinCfg = s.pinCfg := rfl
@[simp] theorem holdWord_dataQ (w : HeldWord) (s : State) : (holdWord w s).dataQ = s.dataQ := rfl
@[simp] theorem holdWord_clkQ (w : HeldWord) (s : State) : (holdWord w s).clkQ = s.clkQ := rfl
@[simp] theorem holdWord_rs (w : HeldWord) (s : State) : (holdWord w s).rs = s.rs := rfl
@[simp] theorem holdWord_control (w : HeldWord) (s : State) :
    (holdWord w s).control = { s.control with waiting := s.control.waiting ++ [w] } := rfl
@[simp] theorem holdWord_slots (w : HeldWord) (s : State) : (holdWord w s).slots = s.slots := rfl
@[simp] theorem holdWord_streams (w : HeldWord) (s : State) : (holdWord w s).streams = s.streams := rfl
@[simp] theorem holdWord_gpio (w : HeldWord) (s : State) : (holdWord w s).gpio = s.gpio := rfl
@[simp] theorem holdWord_signals (w : HeldWord) (s : State) : (holdWord w s).signals = s.signals := rfl
@[simp] theorem holdWord_responses (w : HeldWord) (s : State) : (holdWord w s).responses = s.responses := rfl
@[simp] theorem holdWord_nowMs (w : HeldWord) (s : State) : (holdWord w s).nowMs = s.nowMs := rfl
@[simp] theorem holdWord_inputs (w : HeldWord) (s : State) : (holdWord w s).inputs = s.inputs := rfl
@[simp] theorem holdWord_params (w : HeldWord) (s : State) : (holdWord w s).params = s.params := rfl

/-! paint -/

@[simp] theorem paint_lc (sel : Fin pixelCount → Bool) (r g b : Byte) (e : Option Bri) (s : State) :
    (paint sel r g b e s).lc = s.lc := by
  simp only [paint]
@[simp] theorem paint_pinCfg (sel : Fin pixelCount → Bool) (r g b : Byte) (e : Option Bri) (s : State) :
    (paint sel r g b e s).pinCfg = s.pinCfg := by
  simp only [paint]
@[simp] theorem paint_dataQ (sel : Fin pixelCount → Bool) (r g b : Byte) (e : Option Bri) (s : State) :
    (paint sel r g b e s).dataQ = s.dataQ := by
  simp only [paint]
@[simp] theorem paint_clkQ (sel : Fin pixelCount → Bool) (r g b : Byte) (e : Option Bri) (s : State) :
    (paint sel r g b e s).clkQ = s.clkQ := by
  simp only [paint]
@[simp] theorem paint_rs (sel : Fin pixelCount → Bool) (r g b : Byte) (e : Option Bri) (s : State) :
    (paint sel r g b e s).rs = s.rs := by
  simp only [paint]
@[simp] theorem paint_control (sel : Fin pixelCount → Bool) (r g b : Byte) (e : Option Bri) (s : State) :
    (paint sel r g b e s).control = s.control := by
  simp only [paint]
@[simp] theorem paint_slots (sel : Fin pixelCount → Bool) (r g b : Byte) (e : Option Bri) (s : State) :
    (paint sel r g b e s).slots = s.slots := by
  simp only [paint]
@[simp] theorem paint_streams (sel : Fin pixelCount → Bool) (r g b : Byte) (e : Option Bri) (s : State) :
    (paint sel r g b e s).streams = s.streams := by
  simp only [paint]
@[simp] theorem paint_gpio (sel : Fin pixelCount → Bool) (r g b : Byte) (e : Option Bri) (s : State) :
    (paint sel r g b e s).gpio = s.gpio := by
  simp only [paint]
@[simp] theorem paint_signals (sel : Fin pixelCount → Bool) (r g b : Byte) (e : Option Bri) (s : State) :
    (paint sel r g b e s).signals = s.signals := by
  simp only [paint]
@[simp] theorem paint_responses (sel : Fin pixelCount → Bool) (r g b : Byte) (e : Option Bri) (s : State) :
    (paint sel r g b e s).responses = s.responses := by
  simp only [paint]
@[simp] theorem paint_nowMs (sel : Fin pixelCount → Bool) (r g b : Byte) (e : Option Bri) (s : State) :
    (paint sel r g b e s).nowMs = s.nowMs := by
  simp only [paint]
@[simp] theorem paint_inputs (sel : Fin pixelCount → Bool) (r g b : Byte) (e : Option Bri) (s : State) :
    (paint sel r g b e s).inputs = s.inputs := by
  simp only [paint]
@[simp] theorem paint_params (sel : Fin pixelCount → Bool) (r g b : Byte) (e : Option Bri) (s : State) :
    (paint sel r g b e s).params = s.params := by
  simp only [paint]
@[simp] theorem paint_px_getElem (sel : Fin pixelCount → Bool) (r g b : Byte) (e : Option Bri) (s : State)
    (i : Fin pixelCount) :
    (paint sel r g b e s).px[i] = if sel i then paintPixel r g b e s.px[i] else s.px[i] := by
  simp [paint]

/-! blacken -/

@[simp] theorem blacken_lc (s : State) : (blacken s).lc = s.lc := by
  simp only [blacken, paint]
@[simp] theorem blacken_pinCfg (s : State) : (blacken s).pinCfg = s.pinCfg := by
  simp only [blacken, paint]
@[simp] theorem blacken_dataQ (s : State) : (blacken s).dataQ = s.dataQ := by
  simp only [blacken, paint]
@[simp] theorem blacken_clkQ (s : State) : (blacken s).clkQ = s.clkQ := by
  simp only [blacken, paint]
@[simp] theorem blacken_rs (s : State) : (blacken s).rs = s.rs := by
  simp only [blacken, paint]
@[simp] theorem blacken_control (s : State) : (blacken s).control = s.control := by
  simp only [blacken, paint]
@[simp] theorem blacken_slots (s : State) : (blacken s).slots = s.slots := by
  simp only [blacken, paint]
@[simp] theorem blacken_streams (s : State) : (blacken s).streams = s.streams := by
  simp only [blacken, paint]
@[simp] theorem blacken_gpio (s : State) : (blacken s).gpio = s.gpio := by
  simp only [blacken, paint]
@[simp] theorem blacken_signals (s : State) : (blacken s).signals = s.signals := by
  simp only [blacken, paint]
@[simp] theorem blacken_responses (s : State) : (blacken s).responses = s.responses := by
  simp only [blacken, paint]
@[simp] theorem blacken_nowMs (s : State) : (blacken s).nowMs = s.nowMs := by
  simp only [blacken, paint]
@[simp] theorem blacken_inputs (s : State) : (blacken s).inputs = s.inputs := by
  simp only [blacken, paint]
@[simp] theorem blacken_params (s : State) : (blacken s).params = s.params := by
  simp only [blacken, paint]
@[simp] theorem blacken_px_getElem (s : State) (i : Fin pixelCount) :
    (blacken s).px[i] = ⟨0, 0, 0, s.px[i].bri⟩ := by
  simp [blacken, paint, paintPixel]

/-! fillBlack -/

@[simp] theorem fillBlack_px (e : Bri) (s : State) :
    (fillBlack e s).px = Vector.replicate pixelCount ⟨0, 0, 0, e⟩ := rfl
@[simp] theorem fillBlack_lc (e : Bri) (s : State) : (fillBlack e s).lc = s.lc := rfl
@[simp] theorem fillBlack_pinCfg (e : Bri) (s : State) : (fillBlack e s).pinCfg = s.pinCfg := rfl
@[simp] theorem fillBlack_dataQ (e : Bri) (s : State) : (fillBlack e s).dataQ = s.dataQ := rfl
@[simp] theorem fillBlack_clkQ (e : Bri) (s : State) : (fillBlack e s).clkQ = s.clkQ := rfl
@[simp] theorem fillBlack_rs (e : Bri) (s : State) : (fillBlack e s).rs = s.rs := rfl
@[simp] theorem fillBlack_control (e : Bri) (s : State) : (fillBlack e s).control = s.control := rfl
@[simp] theorem fillBlack_slots (e : Bri) (s : State) : (fillBlack e s).slots = s.slots := rfl
@[simp] theorem fillBlack_streams (e : Bri) (s : State) : (fillBlack e s).streams = s.streams := rfl
@[simp] theorem fillBlack_gpio (e : Bri) (s : State) : (fillBlack e s).gpio = s.gpio := rfl
@[simp] theorem fillBlack_signals (e : Bri) (s : State) : (fillBlack e s).signals = s.signals := rfl
@[simp] theorem fillBlack_responses (e : Bri) (s : State) : (fillBlack e s).responses = s.responses := rfl
@[simp] theorem fillBlack_nowMs (e : Bri) (s : State) : (fillBlack e s).nowMs = s.nowMs := rfl
@[simp] theorem fillBlack_inputs (e : Bri) (s : State) : (fillBlack e s).inputs = s.inputs := rfl
@[simp] theorem fillBlack_params (e : Bri) (s : State) : (fillBlack e s).params = s.params := rfl

/-! startRender -/

@[simp] theorem startRender_px (i : Instr) (cont : Continuation) (s : State) : (startRender i cont s).px = s.px := rfl
@[simp] theorem startRender_lc (i : Instr) (cont : Continuation) (s : State) : (startRender i cont s).lc = s.lc := rfl
@[simp] theorem startRender_pinCfg (i : Instr) (cont : Continuation) (s : State) :
    (startRender i cont s).pinCfg = s.pinCfg := rfl
@[simp] theorem startRender_dataQ (i : Instr) (cont : Continuation) (s : State) :
    (startRender i cont s).dataQ = s.dataQ := rfl
@[simp] theorem startRender_clkQ (i : Instr) (cont : Continuation) (s : State) :
    (startRender i cont s).clkQ = s.clkQ := rfl
@[simp] theorem startRender_rs (i : Instr) (cont : Continuation) (s : State) :
    (startRender i cont s).rs = .busy 0 cont := rfl
@[simp] theorem startRender_control (i : Instr) (cont : Continuation) (s : State) :
    (startRender i cont s).control = { s.control with inProgress := some i } := rfl
@[simp] theorem startRender_slots (i : Instr) (cont : Continuation) (s : State) :
    (startRender i cont s).slots = s.slots := rfl
@[simp] theorem startRender_streams (i : Instr) (cont : Continuation) (s : State) :
    (startRender i cont s).streams = s.streams := rfl
@[simp] theorem startRender_gpio (i : Instr) (cont : Continuation) (s : State) :
    (startRender i cont s).gpio = s.gpio := rfl
@[simp] theorem startRender_signals (i : Instr) (cont : Continuation) (s : State) :
    (startRender i cont s).signals = s.signals := rfl
@[simp] theorem startRender_responses (i : Instr) (cont : Continuation) (s : State) :
    (startRender i cont s).responses = s.responses := rfl
@[simp] theorem startRender_nowMs (i : Instr) (cont : Continuation) (s : State) :
    (startRender i cont s).nowMs = s.nowMs := rfl
@[simp] theorem startRender_inputs (i : Instr) (cont : Continuation) (s : State) :
    (startRender i cont s).inputs = s.inputs := rfl
@[simp] theorem startRender_params (i : Instr) (cont : Continuation) (s : State) :
    (startRender i cont s).params = s.params := rfl

/-! setSlot -/

@[simp] theorem setSlot_px (p : ButtonPin) (m : Monitor) (s : State) : (setSlot p m s).px = s.px := rfl
@[simp] theorem setSlot_lc (p : ButtonPin) (m : Monitor) (s : State) : (setSlot p m s).lc = s.lc := rfl
@[simp] theorem setSlot_pinCfg (p : ButtonPin) (m : Monitor) (s : State) : (setSlot p m s).pinCfg = s.pinCfg := rfl
@[simp] theorem setSlot_dataQ (p : ButtonPin) (m : Monitor) (s : State) : (setSlot p m s).dataQ = s.dataQ := rfl
@[simp] theorem setSlot_clkQ (p : ButtonPin) (m : Monitor) (s : State) : (setSlot p m s).clkQ = s.clkQ := rfl
@[simp] theorem setSlot_rs (p : ButtonPin) (m : Monitor) (s : State) : (setSlot p m s).rs = s.rs := rfl
@[simp] theorem setSlot_control (p : ButtonPin) (m : Monitor) (s : State) : (setSlot p m s).control = s.control := rfl
@[simp] theorem setSlot_slots (p : ButtonPin) (m : Monitor) (s : State) :
    (setSlot p m s).slots = s.slots.set p (some m) := rfl
@[simp] theorem setSlot_streams (p : ButtonPin) (m : Monitor) (s : State) : (setSlot p m s).streams = s.streams := rfl
@[simp] theorem setSlot_gpio (p : ButtonPin) (m : Monitor) (s : State) : (setSlot p m s).gpio = s.gpio := rfl
@[simp] theorem setSlot_signals (p : ButtonPin) (m : Monitor) (s : State) : (setSlot p m s).signals = s.signals := rfl
@[simp] theorem setSlot_responses (p : ButtonPin) (m : Monitor) (s : State) :
    (setSlot p m s).responses = s.responses := rfl
@[simp] theorem setSlot_nowMs (p : ButtonPin) (m : Monitor) (s : State) : (setSlot p m s).nowMs = s.nowMs := rfl
@[simp] theorem setSlot_inputs (p : ButtonPin) (m : Monitor) (s : State) : (setSlot p m s).inputs = s.inputs := rfl
@[simp] theorem setSlot_params (p : ButtonPin) (m : Monitor) (s : State) : (setSlot p m s).params = s.params := rfl

/-! takeRequest -/

@[simp] theorem takeRequest_px (p : ButtonPin) (s : State) : (takeRequest p s).px = s.px := rfl
@[simp] theorem takeRequest_lc (p : ButtonPin) (s : State) : (takeRequest p s).lc = s.lc := rfl
@[simp] theorem takeRequest_pinCfg (p : ButtonPin) (s : State) : (takeRequest p s).pinCfg = s.pinCfg := rfl
@[simp] theorem takeRequest_dataQ (p : ButtonPin) (s : State) : (takeRequest p s).dataQ = s.dataQ := rfl
@[simp] theorem takeRequest_clkQ (p : ButtonPin) (s : State) : (takeRequest p s).clkQ = s.clkQ := rfl
@[simp] theorem takeRequest_rs (p : ButtonPin) (s : State) : (takeRequest p s).rs = s.rs := rfl
@[simp] theorem takeRequest_control (p : ButtonPin) (s : State) : (takeRequest p s).control = s.control := rfl
@[simp] theorem takeRequest_slots (p : ButtonPin) (s : State) : (takeRequest p s).slots = s.slots := rfl
@[simp] theorem takeRequest_streams (p : ButtonPin) (s : State) :
    (takeRequest p s).streams = s.streams.set p (portTaken (s.streams.get p)) := rfl
@[simp] theorem takeRequest_gpio (p : ButtonPin) (s : State) : (takeRequest p s).gpio = s.gpio := rfl
@[simp] theorem takeRequest_signals (p : ButtonPin) (s : State) : (takeRequest p s).signals = s.signals := rfl
@[simp] theorem takeRequest_responses (p : ButtonPin) (s : State) : (takeRequest p s).responses = s.responses := rfl
@[simp] theorem takeRequest_nowMs (p : ButtonPin) (s : State) : (takeRequest p s).nowMs = s.nowMs := rfl
@[simp] theorem takeRequest_inputs (p : ButtonPin) (s : State) : (takeRequest p s).inputs = s.inputs := rfl
@[simp] theorem takeRequest_params (p : ButtonPin) (s : State) : (takeRequest p s).params = s.params := rfl

/-! holdRequest -/

@[simp] theorem holdRequest_px (p : ButtonPin) (s : State) : (holdRequest p s).px = s.px := rfl
@[simp] theorem holdRequest_lc (p : ButtonPin) (s : State) : (holdRequest p s).lc = s.lc := rfl
@[simp] theorem holdRequest_pinCfg (p : ButtonPin) (s : State) : (holdRequest p s).pinCfg = s.pinCfg := rfl
@[simp] theorem holdRequest_dataQ (p : ButtonPin) (s : State) : (holdRequest p s).dataQ = s.dataQ := rfl
@[simp] theorem holdRequest_clkQ (p : ButtonPin) (s : State) : (holdRequest p s).clkQ = s.clkQ := rfl
@[simp] theorem holdRequest_rs (p : ButtonPin) (s : State) : (holdRequest p s).rs = s.rs := rfl
@[simp] theorem holdRequest_control (p : ButtonPin) (s : State) : (holdRequest p s).control = s.control := rfl
@[simp] theorem holdRequest_slots (p : ButtonPin) (s : State) : (holdRequest p s).slots = s.slots := rfl
@[simp] theorem holdRequest_streams (p : ButtonPin) (s : State) :
    (holdRequest p s).streams = s.streams.set p (portHeld (s.streams.get p)) := rfl
@[simp] theorem holdRequest_gpio (p : ButtonPin) (s : State) : (holdRequest p s).gpio = s.gpio := rfl
@[simp] theorem holdRequest_signals (p : ButtonPin) (s : State) : (holdRequest p s).signals = s.signals := rfl
@[simp] theorem holdRequest_responses (p : ButtonPin) (s : State) : (holdRequest p s).responses = s.responses := rfl
@[simp] theorem holdRequest_nowMs (p : ButtonPin) (s : State) : (holdRequest p s).nowMs = s.nowMs := rfl
@[simp] theorem holdRequest_inputs (p : ButtonPin) (s : State) : (holdRequest p s).inputs = s.inputs := rfl
@[simp] theorem holdRequest_params (p : ButtonPin) (s : State) : (holdRequest p s).params = s.params := rfl

/-! release -/

theorem foldl_gpioClose (ps : List Pin) (s : State) :
    ps.foldl (fun s p => gpioClose p s) s =
      { s with gpio := s.gpio ++ ps.map .close, pinCfg := ps.foldl (fun c p => c.set p .closed) s.pinCfg } := by
  induction ps generalizing s with
  | nil => simp
  | cons p ps ih => rw [List.foldl_cons, ih]; simp [gpioClose]

/-- Everything RELEASE does (R111). -/
theorem release_eq (s : State) : release s =
    { s with
      gpio := s.gpio ++ releasedPins.map .close
      pinCfg := ⟨.closed, .closed, .replicate .closed⟩
      dataQ := none
      clkQ := none
      lc := releasedLc s.lc
      responses := s.responses ++ [⟨.control, .ok, .none⟩]
      control := { s.control with inProgress := none } } := by
  simp only [release, foldl_gpioClose]
  rfl

@[simp] theorem release_px (s : State) : (release s).px = s.px := by rw [release_eq]
@[simp] theorem release_lc (s : State) : (release s).lc = releasedLc s.lc := by rw [release_eq]
@[simp] theorem release_pinCfg (s : State) :
    (release s).pinCfg = ⟨.closed, .closed, .replicate .closed⟩ := by rw [release_eq]
@[simp] theorem release_dataQ (s : State) : (release s).dataQ = none := by rw [release_eq]
@[simp] theorem release_clkQ (s : State) : (release s).clkQ = none := by rw [release_eq]
@[simp] theorem release_rs (s : State) : (release s).rs = s.rs := by rw [release_eq]
@[simp] theorem release_control (s : State) :
    (release s).control = { s.control with inProgress := none } := by rw [release_eq]
@[simp] theorem release_slots (s : State) : (release s).slots = s.slots := by rw [release_eq]
@[simp] theorem release_streams (s : State) : (release s).streams = s.streams := by rw [release_eq]
@[simp] theorem release_gpio (s : State) : (release s).gpio = s.gpio ++ releasedPins.map .close := by rw [release_eq]
@[simp] theorem release_signals (s : State) : (release s).signals = s.signals := by rw [release_eq]
@[simp] theorem release_responses (s : State) :
    (release s).responses = s.responses ++ [⟨.control, .ok, .none⟩] := by rw [release_eq]
@[simp] theorem release_nowMs (s : State) : (release s).nowMs = s.nowMs := by rw [release_eq]
@[simp] theorem release_inputs (s : State) : (release s).inputs = s.inputs := by rw [release_eq]
@[simp] theorem release_params (s : State) : (release s).params = s.params := by rw [release_eq]

end Sys2Proof.Machine
end

