-- ==== Sys2Proof/Laws/Frame.lean ====
section
/-! SUPPORT. Frame.lean: the frame as a list of bits, the serializer's loop as bits8, and the wire bits and levels of
a trace made of two parts (spec/41_frame_encoder.md, spec/10_state.md R25, R41). -/

namespace Sys2Proof.Machine

/-- Lists put together from pieces of one length: their length. -/
theorem length_flatMap_const {α β : Type} (f : α → List β) (n : Nat) (h : ∀ a, (f a).length = n) (l : List α) :
    (l.flatMap f).length = n * l.length := by
  induction l with
  | nil => rfl
  | cons a l ih => simp [h, ih]; ring

/-- Lists put together from pieces of one length: their entries. -/
theorem getElem?_flatMap_const {α β : Type} (f : α → List β) (n : Nat) (hn : 0 < n) (h : ∀ a, (f a).length = n)
    (l : List α) (j : Nat) : (l.flatMap f)[j]? = (l[j / n]?).bind fun a => (f a)[j % n]? := by
  induction l generalizing j with
  | nil => simp
  | cons a l ih =>
    rw [List.flatMap_cons]
    by_cases hj : j < n
    · rw [List.getElem?_append_left (by rw [h]; exact hj)]
      simp [Nat.div_eq_of_lt hj, Nat.mod_eq_of_lt hj]
    · rw [List.getElem?_append_right (by rw [h]; omega), h, ih]
      have e : j = (j - n) + n := by omega
      rw [e, Nat.add_div_right _ hn, Nat.add_mod_right]
      simp

@[simp] theorem bits8_length (v : Byte) : (bits8 v).length = 8 := rfl

@[simp] theorem pixelFrame_length (p : Pixel) : (pixelFrame p).length = 32 := rfl

@[simp] theorem sendBit_length (b : Bool) : (sendBit b).length = 3 := rfl

/-- Bit j of a pixel frame is bit 7 − j mod 8 of its byte j / 8. -/
theorem pixelFrame_getElem? (p : Pixel) (j : Nat) (h : j < 32) :
    (pixelFrame p)[j]? = some ((pixelByte p (j / 8)).getLsbD (7 - j % 8)) := by
  interval_cases j <;> rfl

/-- The mask-and-shift loop sends the bits of bits8. -/
theorem sendByte_eq : ∀ v : Byte, sendByte v = (bits8 v).flatMap sendBit := by decide +kernel

/-- RENDER_SEQ sends the bits of FRAME(px). -/
theorem renderSequence_eq (px : Vector Pixel pixelCount) : renderSequence px = (frame px).flatMap sendBit := by
  unfold renderSequence frame
  rw [List.flatMap_append, List.flatMap_append]
  congr 1
  congr 1
  rw [List.flatMap_assoc]
  congr 1
  funext p
  simp [pixelFrame, pixelBytes, sendByte_eq]

/-- The levels a trace in two parts leaves. -/
theorem levelsFrom_append (d c : Option Bool) (l m : List GpioEvent) :
    levelsFrom d c (l ++ m) = levelsFrom (levelsFrom d c l).1 (levelsFrom d c l).2 m := by
  induction l generalizing d c with
  | nil => rfl
  | cons e l ih =>
    rcases e with ⟨p, _, _⟩ | ⟨p, _⟩ | p <;> rcases p with _ | _ | _ <;> exact ih ..

/-- The wire bits of a trace in two parts: those of the first, then those of the second from the levels the first
leaves. -/
theorem wireFrom_append (d c : Option Bool) (l m : List GpioEvent) :
    wireFrom d c (l ++ m) =
      (wireFrom d c l).bind fun b => (wireFrom (levelsFrom d c l).1 (levelsFrom d c l).2 m).map (b ++ ·) := by
  induction l generalizing d c with
  | nil => simp [wireFrom, levelsFrom]
  | cons e l ih =>
    rcases e with ⟨p, _, _⟩ | ⟨p, v⟩ | p <;> rcases p with _ | _ | _ <;>
      first
      | exact ih ..
      | (cases v
         · exact ih ..
         · rcases c with _ | _ | _
           · rfl
           · rcases d with _ | d
             · rfl
             · simp only [List.cons_append, wireFrom, levelsFrom, ih, Option.map_bind, Option.bind_map]
               congr 1
               funext b
               simp [Function.comp_def]
           · exact ih ..)

end Sys2Proof.Machine
end

