-- ==== Sys2Proof/Laws/Ops.lean ====
section
/-! SUPPORT. Ops.lean: what each shared operation can do, said once: pins and their numbers, the control port, the
operand checks, FINISH, the poll tick and the evaluation of a NEXT_RECORD. -/

namespace Sys2Proof

@[simp] theorem ButtonPin.mem_all (p : ButtonPin) : p ∈ ButtonPin.all := by cases p <;> decide

/-- The pin numbers are BUTTON_PINS, and name their button. -/
@[simp] theorem ButtonPin.ofNumber?_number (p : ButtonPin) : ButtonPin.ofNumber? (p.number : Int) = some p := by
  cases p <;> decide

theorem ButtonPin.number_of_ofNumber? {a : Int} {p : ButtonPin} (h : ButtonPin.ofNumber? a = some p) :
    a = p.number := by
  have := List.find?_some h
  simp only [beq_iff_eq] at this
  exact this.symm

theorem ButtonPin.ofNumber?_eq_some_iff {a : Int} {p : ButtonPin} :
    ButtonPin.ofNumber? a = some p ↔ a = p.number :=
  ⟨ButtonPin.number_of_ofNumber?, fun h => h ▸ ButtonPin.ofNumber?_number p⟩

theorem ButtonPin.ofNumber?_eq_none_iff {a : Int} :
    ButtonPin.ofNumber? a = none ↔ ∀ p : ButtonPin, a ≠ p.number := by
  constructor
  · intro h p hp
    rw [hp, ButtonPin.ofNumber?_number] at h
    exact absurd h (by simp)
  · intro h
    cases hp : ButtonPin.ofNumber? a with
    | none => rfl
    | some p => exact absurd (ButtonPin.number_of_ofNumber? hp) (h p)

namespace Machine

theorem portFree_iff {s : State} : portFree s = true ↔ s.rs = .idle ∧ s.control.inProgress = none := by
  simp [portFree]

theorem portFree_of_busy {s : State} {k : Fin renderWrites} {c : Continuation} (h : s.rs = .busy k c) :
    portFree s = false := by simp [portFree, h]

theorem onControl_free {i : Instr} {perform : State → State} {s : State} (h : portFree s = true) :
    onControl i perform s = perform s := by simp [onControl, h]

theorem onControl_held {i : Instr} {perform : State → State} {s : State} (h : portFree s = false) :
    onControl i perform s = holdWord (.command i) s := by simp [onControl, h]

theorem indexInRange_iff {a : Int} : indexInRange a = true ↔ 0 ≤ a ∧ a ≤ 15 := by simp [indexInRange]

theorem channelInRange_iff {a : Int} : channelInRange a = true ↔ a = 0 ∨ a = 1 := by simp [channelInRange]

theorem briInvalid_eq_false_iff {bri : Option Binary64} :
    briInvalid bri = false ↔ ∀ x, bri = some x → validBri x = true := by
  cases bri <;> simp [briInvalid]

theorem briInvalid_eq_true_iff {bri : Option Binary64} :
    briInvalid bri = true ↔ ∃ x, bri = some x ∧ validBri x = false := by
  cases bri <;> simp [briInvalid]

theorem queueFull_bounded {n : Nat} {h : 0 < n} {i : Monitor} :
    queueFull (.bounded n h) i = true ↔ i.queue.length = n := by simp [queueFull]

theorem idleExpired_iff {t : Time} {i : Monitor} :
    idleExpired t i = true ↔
      0 < i.lastPress.toNat ∧ (i.idleTimeoutMs : Int) < (t.toNat : Int) - (i.lastPress.toNat : Int) := by
  simp only [idleExpired, Bool.and_eq_true, decide_eq_true_eq]
  rfl

theorem settleDue_iff {t : Time} {i : Monitor} :
    settleDue t i = true ↔ i.monitoring = false ∧ 100 ≤ (t.toNat : Int) - (i.startMs.toNat : Int) := by
  simp only [settleDue, Bool.and_eq_true, decide_eq_true_eq, Bool.not_eq_true']
  rfl

theorem tickEnabled_some_iff {c : PinConfig} {i : Monitor} :
    tickEnabled c (some i) = true ↔ i.st = .monitoring ∧ c = .inputPullup := by
  simp [tickEnabled]

/-- Only the queue and ovf change when a tick appends. -/
theorem appendState_cases (cap : QueueCap) (v : Bool) (i : Monitor) :
    (queueFull cap i = true ∧ appendState cap v i = { i with ovf := true }) ∨
    (queueFull cap i = false ∧ appendState cap v i = { i with queue := i.queue ++ [v] }) := by
  cases h : queueFull cap i <;> simp [appendState, h]

@[simp] theorem appendState_st (cap : QueueCap) (v : Bool) (i : Monitor) : (appendState cap v i).st = i.st := by
  rcases appendState_cases cap v i with ⟨_, h⟩ | ⟨_, h⟩ <;> rw [h]

@[simp] theorem appendState_monitoring (cap : QueueCap) (v : Bool) (i : Monitor) :
    (appendState cap v i).monitoring = i.monitoring := by
  rcases appendState_cases cap v i with ⟨_, h⟩ | ⟨_, h⟩ <;> rw [h]

@[simp] theorem appendState_lastPress (cap : QueueCap) (v : Bool) (i : Monitor) :
    (appendState cap v i).lastPress = i.lastPress := by
  rcases appendState_cases cap v i with ⟨_, h⟩ | ⟨_, h⟩ <;> rw [h]

@[simp] theorem appendState_idleTimeoutMs (cap : QueueCap) (v : Bool) (i : Monitor) :
    (appendState cap v i).idleTimeoutMs = i.idleTimeoutMs := by
  rcases appendState_cases cap v i with ⟨_, h⟩ | ⟨_, h⟩ <;> rw [h]

@[simp] theorem appendState_startMs (cap : QueueCap) (v : Bool) (i : Monitor) :
    (appendState cap v i).startMs = i.startMs := by
  rcases appendState_cases cap v i with ⟨_, h⟩ | ⟨_, h⟩ <;> rw [h]

/-- The three outcomes of a poll tick on an instance: a press, a release that keeps it, a release that closes
it. -/
theorem tickInstance_cases (p : ButtonPin) (level : Bool) (i : Monitor) (s : State) :
    (level = false ∧ tickInstance p level i s = setSlot p
      { appendState s.params.queueCap true i with lastPress := s.nowMs } (emit (.pinChange p true) s)) ∨
    (level = true ∧ idleExpired s.nowMs i = false ∧ tickInstance p level i s = setSlot p
      { appendState s.params.queueCap false i with lastPress := 0 } (emit (.pinChange p false) s)) ∨
    (level = true ∧ idleExpired s.nowMs i = true ∧ tickInstance p level i s = closeMonitor p
      (appendState s.params.queueCap false i) (emit (.pinChange p false) s)) := by
  have h : ∀ v, idleExpired s.nowMs (appendState s.params.queueCap v i) = idleExpired s.nowMs i := by
    intro v; simp [idleExpired]
  cases level with
  | false => exact .inl ⟨rfl, rfl⟩
  | true =>
    cases hx : idleExpired s.nowMs i with
    | false => exact .inr (.inl ⟨rfl, rfl, by simp [tickInstance, logicalState, h, hx]⟩)
    | true => exact .inr (.inr ⟨rfl, rfl, by simp [tickInstance, logicalState, h, hx]⟩)

/-- A NEXT_RECORD that answers: NoMonitor, END, or the oldest record; otherwise it holds. -/
theorem evalRequest_cases (p : ButtonPin) (s : State) :
    (s.slots.get p = none ∧ evalRequest p s = some (respond (.stream p) .noMonitor .none s)) ∨
    (∃ i, s.slots.get p = some i ∧ i.st = .closed ∧ (s.params.drainBeforeEnd = false ∨ i.queue = []) ∧
      evalRequest p s = some (respond (.stream p) .ended .none s)) ∨
    (∃ i v rest, s.slots.get p = some i ∧ i.queue = v :: rest ∧
      (i.st = .closed ∧ s.params.drainBeforeEnd = true ∨ i.st = .monitoring ∧ i.monitoring = true) ∧
      evalRequest p s = some (deliver p i v rest s)) ∨
    (∃ i, s.slots.get p = some i ∧ i.st = .monitoring ∧ (i.monitoring = false ∨ i.queue = []) ∧
      evalRequest p s = none) := by
  unfold evalRequest
  cases hs : s.slots.get p with
  | none => simp [raiseError]
  | some i =>
    rcases hq : i.queue with _ | ⟨_ | _, rest⟩ <;> cases hst : i.st <;> cases hm : i.monitoring <;>
      cases hd : s.params.drainBeforeEnd <;> simp [hst, hq, hm]

end Machine
end Sys2Proof
end

