-- ==== Sys2Proof/Laws/PerInstr.lean ====
section
/-! SUPPORT. PerInstr.lean: statements made of every instruction, one lemma a constructor. RowBits: the encoder's
word carries the fixed bits of the instruction's row in spec/opcode_table.json (OP and RSV = 0 for a command, bits
15:9 zero for an event). -/

namespace Sys2Proof.Laws

/-- The opcode of a command's row (spec/30_encoding.md R71). -/
def RowBits.opcode : Instr → BitVec 4
  | .init _ => 0x0
  | .setPixel _ _ _ _ _ _ => 0x1
  | .setChannel _ _ _ _ _ _ => 0x2
  | .setAll _ _ _ _ _ => 0x3
  | .clearAll _ => 0x4
  | .render => 0x5
  | .teardown _ => 0x6
  | .getButtonSpecs => 0x7
  | .monitorButton _ => 0x8
  | .nextRecord _ => 0x9
  | .pollTick _ _ => 0x0

/-- The word of the instruction has its row's fixed bits. -/
def RowBits.Statement (i : Instr) : Prop :=
  match encode i with
  | .command w => fieldOp w = RowBits.opcode i ∧ fieldRsv w = 0
  | .event w => w.extractLsb' 9 7 = 0

theorem RowBits.init (bri : Option Binary64) : RowBits.Statement (.init bri) :=
  ⟨commandWord_op .., commandWord_rsv ..⟩

theorem RowBits.setPixel (a : Int) (r g b : Byte) (bri : Option Binary64) (redraw : Bool) :
    RowBits.Statement (.setPixel a r g b bri redraw) := ⟨commandWord_op .., commandWord_rsv ..⟩

theorem RowBits.setChannel (a : Int) (r g b : Byte) (bri : Option Binary64) (redraw : Bool) :
    RowBits.Statement (.setChannel a r g b bri redraw) := ⟨commandWord_op .., commandWord_rsv ..⟩

theorem RowBits.setAll (r g b : Byte) (bri : Option Binary64) (redraw : Bool) :
    RowBits.Statement (.setAll r g b bri redraw) := ⟨commandWord_op .., commandWord_rsv ..⟩

theorem RowBits.clearAll (redraw : Bool) : RowBits.Statement (.clearAll redraw) :=
  ⟨commandWord_op .., commandWord_rsv ..⟩

theorem RowBits.render : RowBits.Statement .render := ⟨commandWord_op .., commandWord_rsv ..⟩

theorem RowBits.teardown (turnOffFirst : Bool) : RowBits.Statement (.teardown turnOffFirst) :=
  ⟨commandWord_op .., commandWord_rsv ..⟩

theorem RowBits.getButtonSpecs : RowBits.Statement .getButtonSpecs := ⟨commandWord_op .., commandWord_rsv ..⟩

theorem RowBits.monitorButton (a : Int) : RowBits.Statement (.monitorButton a) :=
  ⟨commandWord_op .., commandWord_rsv ..⟩

theorem RowBits.nextRecord (a : Int) : RowBits.Statement (.nextRecord a) :=
  ⟨commandWord_op .., commandWord_rsv ..⟩

theorem RowBits.pollTick (pin : Nat) (level : Bool) : RowBits.Statement (.pollTick pin level) :=
  eventWord_reserved level pin

end Sys2Proof.Laws
end

