-- ==== Sys2Proof/Laws/Step.lean ====
section
/-! SUPPORT. Step.lean: everything a step can do, said once. A step takes at most one turn and one held word, and then
does nothing more, or exactly one `Action`, or the completion of one held request (`Service`); a claim about every step
is a case analysis over these (`step_cases`, `step_keeps`). Which turn a step takes: `step_takes`, `step_idle`,
`step_serves`. -/

namespace Sys2Proof.Machine

/-- One atomic change of the block, with what must hold for it to happen. -/
inductive Action : State → State → Prop where
  /-- An answer and nothing else: an error, END, the button table. -/
  | answer (s : State) (port : PortId) (code : Code) (payload : Payload) :
      Action s (respond port code payload s)
  /-- A word is held at the control port. -/
  | hold (s : State) (w : HeldWord) : Action s (holdWord w s)
  | init (s : State) (e : Bri) (free : portFree s = true) (closed : s.lc ≠ .ready)
      (he : (∃ x, validBri x = true ∧ e = encBri x) ∨ e = BitVec.ofNat 6 s.params.defaultBri.val) :
      Action s (initStrip e s)
  /-- SET_PIXEL, SET_CHANNEL, SET_ALL and CLEAR_ALL. -/
  | painted (s : State) (i : Instr) (f : Bool) (sel : Fin pixelCount → Bool) (r g b : Byte) (e : Option Bri)
      (free : portFree s = true) (ready : s.lc = .ready)
      (he : ∀ e', e = some e' → ∃ x, validBri x = true ∧ e' = encBri x) :
      Action s (finish i f (paint sel r g b e s))
  | render (s : State) (free : portFree s = true) (ready : s.lc = .ready) :
      Action s (startRender .render .respondOk s)
  | teardown (s : State) (i : Instr) (free : portFree s = true) (ready : s.lc = .ready) :
      Action s (startRender i .release (blacken s))
  | release (s : State) (free : portFree s = true) : Action s (release s)
  | startMonitor (s : State) (p : ButtonPin) (free : portFree s = true)
      (closed : s.pinCfg.get (.button p) = .closed) : Action s (startMonitor p s)
  | tick (s : State) (p : ButtonPin) (level : Bool) (i : Monitor) (slot : s.slots.get p = some i)
      (st : i.st = .monitoring) (pin : s.pinCfg.get (.button p) = .inputPullup) :
      Action s (tickInstance p level i s)
  | settle (s : State) (p : ButtonPin) (i : Monitor) (slot : s.slots.get p = some i)
      (due : settleDue s.nowMs i = true) :
      Action s (emit (.monitoring p) (setSlot p { i with monitoring := true } s))
  | clock (s : State) (t : Time) : Action s { s with nowMs := t }
  /-- Write k of a render. -/
  | write (s : State) (k : Fin renderWrites) (cont : Continuation) (busy : s.rs = .busy k cont)
      (value : s.lc ≠ .uninit) :
      Action s (advanceRender k cont (gpioWrite (renderWrite s.px k.val).1 (renderWrite s.px k.val).2 s))
  /-- A NEXT_RECORD that answers a record on arrival. -/
  | deliver (s : State) (p : ButtonPin) (i : Monitor) (v : Bool) (rest : List Bool)
      (slot : s.slots.get p = some i) (queue : i.queue = v :: rest) (idle : (s.streams.get p).pending = false) :
      Action s (deliver p i v rest s)
  /-- A NEXT_RECORD that is held. -/
  | holdRequest (s : State) (p : ButtonPin)
      (h : (s.streams.get p).pending = true ∨ (s.slots.get p).isSome = true) : Action s (holdRequest p s)

/-- The completion of slot p's held NEXT_RECORD. -/
inductive Service (p : ButtonPin) : State → State → Prop where
  /-- NoMonitor or END. -/
  | answer (s : State) (code : Code) (pending : (s.streams.get p).pending = true)
      (answers : (evalRequest p s).isSome = true) : Service p s (takeRequest p (respond (.stream p) code .none s))
  /-- A record. -/
  | deliver (s : State) (i : Monitor) (v : Bool) (rest : List Bool) (slot : s.slots.get p = some i)
      (queue : i.queue = v :: rest) (pending : (s.streams.get p).pending = true) :
      Service p s (takeRequest p (Machine.deliver p i v rest s))

/-- At most one input, and at most one held word, taken from the front. -/
def Popped (s s' : State) : Prop :=
  ∃ (inputs : List Turn) (waiting : List HeldWord),
    (inputs = s.inputs ∨ ∃ x, s.inputs = x :: inputs) ∧
    (waiting = s.control.waiting ∨ ∃ w, s.control.waiting = w :: waiting) ∧
    s' = { s with inputs := inputs, control := { s.control with waiting := waiting } }

theorem Popped.refl (s : State) : Popped s s := ⟨s.inputs, s.control.waiting, .inl rfl, .inl rfl, rfl⟩

/-- A command on the control port: held, or what it does on a free port. -/
theorem onControl_cases {i : Instr} {perform : State → State} {s : State}
    (h : portFree s = true → perform s = s ∨ Action s (perform s)) :
    onControl i perform s = s ∨ Action s (onControl i perform s) := by
  cases hf : portFree s with
  | false => rw [onControl_held hf]; exact .inr (.hold s _)
  | true => rw [onControl_free hf]; exact h hf

theorem encOperand_valid {bri : Option Binary64} (h : briInvalid bri = false) :
    ∀ e, encOperand bri = some e → ∃ x, validBri x = true ∧ e = encBri x := by
  cases bri with
  | none => simp [encOperand]
  | some x => exact fun e he => ⟨x, briInvalid_eq_false_iff.mp h x rfl, by simpa [encOperand] using he.symm⟩

/-- exec always answers a next state: `execState i s`. -/
def execState (i : Instr) (s : State) : State :=
  match i with
  | .init bri => onControl i (initCommand bri) s
  | .setPixel a r g b bri f => onControl i (setPixelCommand a r g b bri f) s
  | .setChannel a r g b bri f => onControl i (setChannelCommand a r g b bri f) s
  | .setAll r g b bri f => onControl i (setAllCommand r g b bri f) s
  | .clearAll f => onControl i (clearAllCommand f) s
  | .render => onControl i renderCommand s
  | .teardown f => onControl i (teardownCommand f) s
  | .getButtonSpecs => onControl i getButtonSpecsCommand s
  | .monitorButton a => onControl i (monitorButtonCommand a) s
  | .nextRecord a => nextRecordCommand a s
  | .pollTick pin level => pollTickEvent pin level s

theorem exec_eq (i : Instr) (s : State) : exec i s = .next (execState i s) := by
  cases i <;> rfl

theorem initCommand_cases (bri : Option Binary64) {s : State} (hf : portFree s = true) :
    Action s (initCommand bri s) := by
  unfold initCommand
  split
  · exact .answer s ..
  · rename_i hb
    split
    · exact .answer s ..
    · rename_i hr
      refine .init s _ hf hr ?_
      cases bri with
      | none => exact .inr rfl
      | some x => exact .inl ⟨x, briInvalid_eq_false_iff.mp (by simpa using hb) x rfl, rfl⟩

theorem paintCommand_cases (i : Instr) (f : Bool) (sel : Fin pixelCount → Bool) (r g b : Byte)
    (bri : Option Binary64) {s : State} (hf : portFree s = true) :
    Action s (if briInvalid bri then raiseError .control .invalidBrightness s
      else if s.lc ≠ .ready then raiseError .control .notReady s
      else finish i f (paint sel r g b (encOperand bri) s)) := by
  split
  · exact .answer s ..
  · rename_i hb
    split
    · exact .answer s ..
    · rename_i hr
      exact .painted s i f sel r g b _ hf (by simpa using hr) (encOperand_valid (by simpa using hb))

theorem streamRequest_cases (p : ButtonPin) (s : State) : Action s (streamRequest p s) := by
  unfold streamRequest
  split
  · rename_i hp; exact .holdRequest s p (.inl hp)
  · rename_i hp
    rcases evalRequest_cases p s with ⟨_, he⟩ | ⟨i, _, _, _, he⟩ | ⟨i, v, rest, hs, hq, _, he⟩ | ⟨i, hs, _, _, he⟩ <;>
      rw [he]
    · exact .answer s ..
    · exact .answer s ..
    · exact .deliver s p i v rest hs hq (by simpa using hp)
    · exact .holdRequest s p (.inr (by simp [hs]))

theorem tickStep_cases (p : ButtonPin) (level : Bool) (s : State) :
    tickStep p level s = s ∨ Action s (tickStep p level s) := by
  unfold tickStep
  split
  · exact .inl rfl
  · rename_i i hs
    split
    · rename_i h
      obtain ⟨hst, hc⟩ := tickEnabled_some_iff.mp h
      exact .inr (.tick s p level i hs hst hc)
    · exact .inl rfl

theorem settleStep_cases (p : ButtonPin) (s : State) : settleStep p s = s ∨ Action s (settleStep p s) := by
  unfold settleStep
  split
  · exact .inl rfl
  · rename_i i hs
    split
    · rename_i h; exact .inr (.settle s p i hs h)
    · exact .inl rfl

/-- Everything an instruction can do. -/
theorem execState_cases (i : Instr) (s : State) : execState i s = s ∨ Action s (execState i s) := by
  cases i with
  | init bri => exact onControl_cases fun hf => .inr (initCommand_cases bri hf)
  | setPixel a r g b bri f =>
    refine onControl_cases fun hf => .inr ?_
    unfold setPixelCommand
    split
    · exact .answer s ..
    · exact paintCommand_cases _ f _ r g b bri hf
  | setChannel a r g b bri f =>
    refine onControl_cases fun hf => .inr ?_
    unfold setChannelCommand
    split
    · exact .answer s ..
    · exact paintCommand_cases _ f _ r g b bri hf
  | setAll r g b bri f => exact onControl_cases fun hf => .inr (paintCommand_cases _ f _ r g b bri hf)
  | clearAll f =>
    refine onControl_cases fun hf => .inr ?_
    unfold clearAllCommand
    split
    · exact .answer s ..
    · rename_i hr
      exact .painted s _ f _ 0 0 0 none hf (by simpa using hr) (by simp)
  | render =>
    refine onControl_cases fun hf => .inr ?_
    unfold renderCommand
    split
    · exact .answer s ..
    · rename_i hr; exact .render s hf (by simpa using hr)
  | teardown f =>
    refine onControl_cases fun hf => .inr ?_
    unfold teardownCommand
    split
    · rename_i hr; exact .teardown s _ hf hr.2
    · exact .release s hf
  | getButtonSpecs => exact onControl_cases fun _ => .inr (.answer s ..)
  | monitorButton a =>
    refine onControl_cases fun hf => .inr ?_
    unfold monitorButtonCommand
    split
    · exact .answer s ..
    · rename_i p _
      split
      · exact .answer s ..
      · rename_i hc; exact .startMonitor s p hf (by simpa using hc)
  | nextRecord a =>
    simp only [execState, nextRecordCommand]
    split
    · exact onControl_cases fun _ => .inr (.answer s ..)
    · exact .inr (streamRequest_cases _ s)
  | pollTick pin level =>
    simp only [execState, pollTickEvent]
    split
    · exact .inl rfl
    · exact tickStep_cases _ level s

theorem exec_cases {i : Instr} {s t : State} (h : exec i s = .next t) : t = s ∨ Action s t := by
  rw [exec_eq] at h
  cases h
  exact execState_cases i s

theorem controlTurn_cases {s t : State} (h : controlTurn s = .next t) :
    ∃ s', Popped s s' ∧ s'.inputs = s.inputs ∧ (t = s' ∨ Action s' t) := by
  unfold controlTurn at h
  split at h
  · rename_i k cont hrs
    unfold renderStep at h
    split at h
    · cases h
    · rename_i hl
      cases h
      exact ⟨s, .refl s, rfl, .inr (.write s k cont hrs hl)⟩
  · split at h
    · cases h; exact ⟨s, .refl s, rfl, .inl rfl⟩
    · rename_i w rest hw
      split at h
      · refine ⟨_, ⟨s.inputs, rest, .inl rfl, .inr ⟨w, hw⟩, rfl⟩, rfl, ?_⟩
        cases w with
        | command i => exact exec_cases h
        | illegal => cases h; exact .inr (.answer ..)
      · cases h; exact ⟨s, .refl s, rfl, .inl rfl⟩

theorem arriveWord_cases {w : CommandWord} {s t : State} (h : arriveWord w s = .next t) :
    t = s ∨ Action s t := by
  unfold arriveWord at h
  split at h
  · cases h
    unfold illegalWord
    split
    · exact .inr (.answer s ..)
    · split
      · exact .inr (.answer s ..)
      · exact .inr (.hold s _)
  · unfold arriveCommand at h
    split at h
    · exact exec_cases h
    · split at h
      · exact exec_cases h
      · cases h; exact .inr (.hold s _)

/-- The completion of a ready request. -/
theorem serveRequest_cases {s : State} {p : ButtonPin} (h : requestReady s p = true) :
    Service p s (serveRequest p s) := by
  obtain ⟨hp, ha⟩ : (s.streams.get p).pending = true ∧ (evalRequest p s).isSome = true := by
    simpa [requestReady] using h
  unfold serveRequest
  rcases evalRequest_cases p s with ⟨_, he⟩ | ⟨i, _, _, _, he⟩ | ⟨i, v, rest, hs, hq, _, he⟩ | ⟨i, hs, _, _, he⟩
  · rw [he]; exact .answer s .noMonitor hp ha
  · rw [he]; exact .answer s .ended hp ha
  · rw [he]; exact .deliver s i v rest hs hq hp
  · rw [he] at ha; cases ha

theorem requestTurn_cases (p : ButtonPin) (s : State) :
    requestTurn p s = s ∨ Service p s (requestTurn p s) := by
  unfold requestTurn
  split
  · rename_i h; exact .inr (serveRequest_cases h)
  · exact .inl rfl

/-- What may follow the taking of an input and a held word: nothing, one action, or one completion. -/
def Effect (s t : State) : Prop := t = s ∨ Action s t ∨ ∃ p, Service p s t

theorem Effect.of_action {s t : State} (h : t = s ∨ Action s t) : Effect s t := h.imp_right .inl

theorem takeInput_cases {x : Input} {s t : State} (h : takeInput x s = .next t) :
    ∃ s', Popped s s' ∧ s'.inputs = s.inputs ∧ Effect s' t := by
  cases x with
  | command w => exact ⟨s, .refl s, rfl, .of_action (arriveWord_cases h)⟩
  | event w =>
    simp only [takeInput, arriveEvent] at h
    split at h
    · cases h
    · exact ⟨s, .refl s, rfl, .of_action (exec_cases h)⟩
  | settle p => cases h; exact ⟨s, .refl s, rfl, .of_action (settleStep_cases p s)⟩
  | clock t' => cases h; exact ⟨s, .refl s, rfl, .inr (.inl (.clock s t'))⟩
  | request p =>
    cases h
    exact ⟨s, .refl s, rfl, (requestTurn_cases p s).imp_right fun hs => .inr ⟨p, hs⟩⟩
  | control =>
    obtain ⟨s', hp, hin, he⟩ := controlTurn_cases h
    exact ⟨s', hp, hin, .of_action he⟩

/-- A turn that the inputs give and that nothing comes before is taken. -/
theorem step_takes {s : State} {x : Input} {early : Bool} {rest : List Turn} (hi : s.inputs = ⟨x, early⟩ :: rest)
    (h : early = true ∨ readySlot s = none) : step s = takeInput x { s with inputs := rest } := by
  have hd : dueSlot s = none := by
    rcases h with rfl | h
    · simp [dueSlot, nextIsEarly, hi]
    · simp [dueSlot, h]
  simp only [step, scheduledStep, hd, takeTurn, hi]

/-- With no turn left and no request ready, the control sequencer has the turn. -/
theorem step_idle {s : State} (hi : s.inputs = []) (h : readySlot s = none) : step s = controlTurn s := by
  have hd : dueSlot s = none := by simp [dueSlot, h]
  simp only [step, scheduledStep, hd, takeTurn, hi]

/-- A ready request completes first, unless the next turn is put before it. -/
theorem step_serves {s : State} {p : ButtonPin} (he : nextIsEarly s = false) (h : readySlot s = some p) :
    step s = .next (serveRequest p s) := by
  simp only [step, scheduledStep, dueSlot, he, h]
  rfl

/-- Everything a step can do: at most one input and one held word are taken, and then nothing more happens, or
exactly one action, or the completion of one request. -/
theorem step_cases {s t : State} (h : step s = .next t) : ∃ s', Popped s s' ∧ Effect s' t := by
  unfold step scheduledStep at h
  split at h
  · rename_i p hp
    cases h
    unfold dueSlot at hp
    split at hp
    · cases hp
    · exact ⟨s, .refl s, .inr (.inr ⟨p, serveRequest_cases (List.find?_some hp)⟩)⟩
  · unfold takeTurn at h
    split at h
    · obtain ⟨s', hp, _, he⟩ := controlTurn_cases h
      exact ⟨s', hp, .of_action he⟩
    · rename_i x rest hx
      obtain ⟨s', ⟨l, ws, _, hw, rfl⟩, hin, ht⟩ := takeInput_cases h
      refine ⟨_, ⟨rest, ws, .inr ⟨x, hx⟩, hw, ?_⟩, ht⟩
      cases hin
      rfl

/-- A property of states that the taking of inputs and held words, every completion of a request, and every action
keep, is kept by every step. -/
theorem step_keeps {P : State → Prop} (pop : ∀ s s', P s → Popped s s' → P s')
    (serve : ∀ p s t, P s → Service p s t → P t) (act : ∀ s t, P s → Action s t → P t) {s t : State} (hs : P s)
    (h : step s = .next t) : P t := by
  obtain ⟨s', hp, rfl | ha | ⟨p, ha⟩⟩ := step_cases h
  · exact pop s _ hs hp
  · exact act s' t (pop s s' hs hp) ha
  · exact serve p s' t (pop s s' hs hp) ha

end Sys2Proof.Machine
end

