-- ==== Sys2Proof/Tests/Slice0.lean ====
section
/-! SUPPORT. Slice0.lean: small tests. Expected values are the spec's own: spec/30_encoding.md §7, spec/95_test_vectors.md
and the tables of spec/40_strip_controller.md. After them, a witness for the hypotheses of each obligation. -/

open Sys2Proof Sys2Proof.Machine Sys2Proof.Claims

namespace Sys2Proof.Tests

/-- The next state, if there is one. -/
def next? (o : Host.Outcome State Fault Refusal) : Option State :=
  match o with
  | .next s => some s
  | .fault _ => none
  | .refused _ => none

/-- The state after a list of instructions, each performed by exec. -/
def after (s : State) (is : List Instr) : State := is.foldl (fun s i => (next? (exec i s)).getD s) s

/-- Reset, at @1000, with P_DEFAULT_BRI = 7 and the other parameters at the values of spec/95. -/
def atReset : State := { State.reset with nowMs := 1000, params := ⟨7, 5000, .unbounded, false⟩ }

/-- After INIT bri=1.0. -/
def ready : State := after atReset [.init (some 0x3FF0000000000000)]

/-- MS[29] started at @1000 and settled. -/
def settled : State :=
  { atReset with
    pinCfg := atReset.pinCfg.set (.button .fastForward) .inputPullup
    slots := atReset.slots.set .fastForward (some ⟨.monitoring, true, [], 0, 5000, 1000, false⟩) }

/-- The code of the last answer. -/
def lastCode (s : State) : Option Code := s.responses.getLast?.map (·.code)

/-! ## Well-formedness: an ill-formed term for each check -/

theorem test_setPixel_argument_refused : Instr.wellFormed (.setPixel 2147483648 0 0 0 none false) = false := by decide

theorem test_setChannel_argument_refused :
    Instr.wellFormed (.setChannel (-2147483649) 0 0 0 none false) = false := by decide

theorem test_monitorButton_argument_refused : Instr.wellFormed (.monitorButton 2147483648) = false := by decide

theorem test_nextRecord_argument_refused : Instr.wellFormed (.nextRecord (-2147483649)) = false := by decide

theorem test_pollTick_pin_refused : Instr.wellFormed (.pollTick 256 false) = false := by decide

/-! ## Decoding: words of spec/30 §7 and spec/95 Part 2 -/

theorem test_decode_init : decode (.command 0x3FF00000000000000000000000000020) =
    .ok (.init (some 0x3FF0000000000000)) := by decide

theorem test_decode_init_default : decode (.command 0) = .ok (.init none) := by decide

theorem test_decode_setPixel : decode (.command 0x3FE00000000000000000000330201031) =
    .ok (.setPixel 3 0x10 0x20 0x30 (some 0x3FE0000000000000) true) := by decide

theorem test_decode_setPixel_negative : decode (.command 0x0000000000000000FFFFFFFF00000001) =
    .ok (.setPixel (-1) 0 0 0 none false) := by decide

theorem test_decode_setChannel : decode (.command 0x3FD000000000000000000001FF000032) =
    .ok (.setChannel 1 0 0 255 (some 0x3FD0000000000000) true) := by decide

theorem test_decode_setAll : decode (.command 0x40000000000000000000000003020123) =
    .ok (.setAll 1 2 3 (some 0x4000000000000000) false) := by decide

theorem test_decode_clearAll : decode (.command 0x14) = .ok (.clearAll true) := by decide

theorem test_decode_clearAll_ignores : decode (.command 0x4014000000000000000000000000FF24) =
    .ok (.clearAll false) := by decide

theorem test_decode_render : decode (.command 0x05) = .ok .render := by decide

theorem test_decode_teardown : decode (.command 0x16) = .ok (.teardown true) := by decide

theorem test_decode_getButtonSpecs : decode (.command 0x07) = .ok .getButtonSpecs := by decide

theorem test_decode_monitorButton : decode (.command 0x00000000000000000000001000000008) =
    .ok (.monitorButton 16) := by decide

theorem test_decode_nextRecord : decode (.command 0x00000000000000000000001F00000009) =
    .ok (.nextRecord 31) := by decide

/-- The event word 0000000L PPPPPPPP of R81. -/
theorem test_decode_pollTick : decode (.event 0b0000000100011101) = .ok (.pollTick 29 true) := by decide

/-- V-EN1, V-EN2. -/
theorem test_decode_reserved : decode (.command 0x0A) = .error .reservedOpcode ∧
    decode (.command 0x45) = .error .reservedBits ∧ decode (.event 0x0200) = .error .malformedEvent := by decide

/-- Each row of the opcode table, as the host numbers it. -/
theorem test_table_words : decodeTableWord 8 0x05 = some .render ∧ decodeTableWord 8 0x08 = some (.monitorButton 0) ∧
    decodeTableWord 16 0x0000 = some (.pollTick 0 false) := by decide

/-! ## Brightness: the table of spec/95, Part 2 -/

theorem test_valid_brightness :
    [(0x3FB999999999999A, true), (0x3FB9999999999999, false), (0x3FF0000000000000, true),
      (0x3FF0000000000001, false), (0, false), (0x8000000000000000, false), (0x7FF0000000000000, false),
      (0x7FF8000000000000, false), (0xBFE0000000000000, false)].all
      (fun t : Binary64 × Bool => validBri t.1 == t.2) = true := by decide +kernel

theorem test_encoded_brightness :
    [(0x3FB999999999999A, 3), (0x3FC999999999999A, 6), (0x3FD0000000000000, 7), (0x3FD3333333333333, 9),
      (0x3FE0000000000000, 15), (0x3FE8000000000000, 23), (0x3FEFFFFFFFFFFFFF, 30), (0x3FF0000000000000, 31),
      (0x3FC0842108421084, 4), (0x3FC0842108421083, 3)].all
      (fun t : Binary64 × Bri => encBri t.1 == t.2) = true := by decide +kernel

/-! ## The strip -/

/-- V-IN1. -/
theorem test_init : ready.lc = .ready ∧ ready.dataQ = some false ∧ ready.clkQ = some false ∧
    ready.px = Vector.replicate 16 ⟨0, 0, 0, 31⟩ ∧
    ready.gpio = [.openPin .data .output .none, .openPin .clock .output .none, .write .data false,
      .write .clock false] ∧ lastCode ready = some .ok := by decide +kernel

/-- V-IN2, V-IN4. -/
theorem test_init_default : (after atReset [.init none]).px = Vector.replicate 16 ⟨0, 0, 0, 7⟩ ∧
    lastCode (after atReset [.init (some 0x3FA999999999999A)]) = some .invalidBrightness := by decide +kernel

/-- V-SP1, V-SP5: the other pixels, and an omitted brightness, are kept. -/
theorem test_setPixel :
    (after ready [.setPixel 3 0x10 0x20 0x30 (some 0x3FE0000000000000) false, .setPixel 5 1 2 3 none false]).px.toList =
      List.replicate 3 ⟨0, 0, 0, 31⟩ ++ [⟨0x10, 0x20, 0x30, 15⟩, ⟨0, 0, 0, 31⟩, ⟨1, 2, 3, 31⟩] ++
        List.replicate 10 ⟨0, 0, 0, 31⟩ := by decide +kernel

/-- V-SP4, V-SP6: the order of the checks. -/
theorem test_setPixel_errors :
    lastCode (after ready [.setPixel (-1) 0 0 0 none false]) = some .indexOutOfRange ∧
    lastCode (after ready [.setPixel 16 0 0 0 (some 0x4000000000000000) true]) = some .indexOutOfRange ∧
    lastCode (after atReset [.setPixel 3 0 0 0 (some 0x4000000000000000) true]) = some .invalidBrightness ∧
    lastCode (after atReset [.setPixel 3 0 0 0 none true]) = some .notReady := by decide +kernel

/-- V-SC1, V-SC3. -/
theorem test_setChannel :
    (after ready [.setChannel 1 0 0 255 (some 0x3FD0000000000000) false]).px.toList =
      List.replicate 8 ⟨0, 0, 0, 31⟩ ++ List.replicate 8 ⟨0, 0, 255, 7⟩ ∧
    lastCode (after ready [.setChannel 2 0 0 0 (some 0) false]) = some .invalidChannel := by decide +kernel

/-- V-SA2. -/
theorem test_setAll :
    ((after ready [.setPixel 3 0x10 0x20 0x30 (some 0x3FE0000000000000) false, .setAll 7 7 7 none false]).px.toList).take 4 =
      [⟨7, 7, 7, 31⟩, ⟨7, 7, 7, 31⟩, ⟨7, 7, 7, 31⟩, ⟨7, 7, 7, 15⟩] := by decide +kernel

/-- W4, V-CA2. -/
theorem test_clearAll :
    ((after ready [.setPixel 3 0x10 0x20 0x30 (some 0x3FE0000000000000) false, .clearAll false]).px.toList).take 4 =
      [⟨0, 0, 0, 31⟩, ⟨0, 0, 0, 31⟩, ⟨0, 0, 0, 31⟩, ⟨0, 0, 0, 15⟩] ∧
    lastCode (after atReset [.clearAll false]) = some .notReady := by decide +kernel

/-- R110, V-R3: a redraw makes the port busy and gives no answer yet. -/
theorem test_render :
    (after ready [.render]).rs = .busy 0 .respondOk ∧ (after ready [.render]).responses = ready.responses ∧
    lastCode (after atReset [.render]) = some .notReady := by decide +kernel

/-- V-R1: writes of the W1 buffer. -/
theorem test_render_writes :
    [(0, .data, false), (1, .clock, true), (2, .clock, false), (95, .clock, false), (96, .data, true),
      (97, .clock, true), (98, .clock, false), (117, .data, true), (120, .data, false), (168, .data, true),
      (192, .data, true), (288, .data, true), (1631, .clock, false), (1632, .data, false), (1739, .clock, false)].all
      (fun t : Nat × Pin × Bool => renderWrite (after ready [.setAll 255 0 0 none false]).px t.1 == t.2) = true := by
  decide +kernel

/-- W1, V-R4: the bytes of a pixel frame. -/
theorem test_pixel_frame : pixelBytes ⟨255, 0, 0, 31⟩ = [0xFF, 0x00, 0x00, 0xFF] ∧
    pixelBytes ⟨0x10, 0x20, 0x30, 15⟩ = [0xEF, 0x30, 0x20, 0x10] ∧ globalByte ⟨0, 0, 0, 3⟩ = 0xE3 := by decide

/-- The first write of a render, by a step. -/
theorem test_render_step : (next? (step (after ready [.render]))).map (fun s => (s.rs, s.gpio.getLast?)) =
    some (.busy 1 .respondOk, some (.write .data false)) := by decide +kernel

/-- V-TD2, V-TD3. -/
theorem test_teardown :
    (after ready [.teardown false]).lc = .released ∧ (after ready [.teardown false]).px = ready.px ∧
    (after ready [.teardown false]).dataQ = none ∧
    (after atReset [.teardown true]).lc = .uninit ∧
    (after atReset [.teardown true]).gpio = [.close .data, .close .clock, .close (.button .fastForward),
      .close (.button .playPause), .close (.button .rewind), .close (.button .volUp), .close (.button .volDown),
      .close (.button .power)] := by decide +kernel

/-! ## The buttons -/

/-- V-GB1. -/
theorem test_getButtonSpecs : (after atReset [.getButtonSpecs]).responses = [⟨.control, .ok, .buttonSpecs
    [⟨29, "FAST_FORWARD"⟩, ⟨31, "PLAY_PAUSE"⟩, ⟨33, "REWIND"⟩, ⟨36, "VOL_UP"⟩, ⟨37, "VOL_DOWN"⟩,
      ⟨32, "POWER"⟩]⟩] := by decide

/-- V-MB1. -/
theorem test_monitorButton : (after atReset [.monitorButton 29]).slots.fastForward =
      some ⟨.monitoring, false, [], 0, 5000, 1000, false⟩ ∧
    (after atReset [.monitorButton 29]).gpio = [.openPin (.button .fastForward) .input .up] ∧
    lastCode (after atReset [.monitorButton 29]) = some .ok := by decide +kernel

/-- V-MB2, V-MB3. -/
theorem test_monitorButton_errors :
    lastCode (after atReset [.monitorButton 32, .monitorButton 32]) = some .pinUnavailable ∧
    lastCode (after atReset [.monitorButton 30]) = some .pinUnavailable ∧
    lastCode (after atReset [.monitorButton 16]) = some .pinUnavailable := by decide +kernel

/-- V-ST1: not at @1099 or @3, from @1100 on. -/
theorem test_settle :
    let s := after atReset [.monitorButton 29]
    settleStep .fastForward { s with nowMs := 1099 } = { s with nowMs := 1099 } ∧
    settleStep .fastForward { s with nowMs := 3 } = { s with nowMs := 3 } ∧
    (settleStep .fastForward { s with nowMs := 1100 }).signals = [.monitoring .fastForward] := by decide +kernel

/-- V-PT1, V-PT3. -/
theorem test_pollTick_press_release :
    let s := after { settled with nowMs := 2000 } [.pollTick 29 false]
    let t := after { s with nowMs := 7001 } [.pollTick 29 true]
    s.slots.fastForward = some ⟨.monitoring, true, [true], 2000, 5000, 1000, false⟩ ∧
    t.signals = [.pinChange .fastForward true, .pinChange .fastForward false, .ended .fastForward] ∧
    t.gpio = [.close (.button .fastForward)] ∧
    t.slots.fastForward = some ⟨.closed, true, [true, false], 0, 5000, 1000, false⟩ := by decide +kernel

/-- V-PT2, V-PT6: the boundary, and a clock moved backward. -/
theorem test_pollTick_no_timeout :
    let s := after { settled with nowMs := 2000 } [.pollTick 29 false]
    (after { s with nowMs := 7000 } [.pollTick 29 true]).slots.fastForward =
      some ⟨.monitoring, true, [true, false], 0, 5000, 1000, false⟩ ∧
    (after { s with nowMs := 5 } [.pollTick 29 true]).slots.fastForward =
      some ⟨.monitoring, true, [true, false], 0, 5000, 1000, false⟩ := by decide +kernel

/-- V-PT7: a full queue drops the state and sets ovf. -/
theorem test_pollTick_overflow :
    (after { settled with nowMs := 2000, params := ⟨7, 5000, .bounded 2 (by decide), false⟩ }
      [.pollTick 29 false, .pollTick 29 true, .pollTick 29 false]).slots.fastForward =
      some ⟨.monitoring, true, [true, false], 2000, 5000, 1000, true⟩ := by decide +kernel

/-- V-NR2: the bytes of a record, and the queue's head is taken. -/
theorem test_nextRecord :
    let s := after { settled with nowMs := 2000 } [.pollTick 29 false, .nextRecord 29]
    s.responses = [⟨.stream .fastForward, .ok, .record [0x32, 0x39, 0x2C, 0x31, 0x0A]⟩] ∧
    s.slots.fastForward = some ⟨.monitoring, true, [], 2000, 5000, 1000, false⟩ := by decide +kernel

/-- V-NR1, V-NR3. -/
theorem test_nextRecord_holds :
    lastCode (after atReset [.nextRecord 29]) = some .noMonitor ∧
    lastCode (after atReset [.nextRecord 30]) = some .noMonitor ∧
    (after settled [.nextRecord 29]).streams.fastForward = ⟨true, 0⟩ ∧
    (after settled [.nextRecord 29]).responses = [] := by decide +kernel

/-- A step performs the word placed where it takes its next one. -/
theorem test_withFetchWord : (next? (step (State.reset.withFetchWord 8 0x06))).map lastCode = some (some .ok) ∧
    (next? (step (State.reset.withFetchWord 16 0x001D))).map (·.inputs) = some [] := by decide +kernel

/-! ## Witnesses: for each obligation with hypotheses, states and operands that meet them together -/

theorem briOk_omitted : BriOk none := fun _ h => by cases h

theorem briOk_lowest : BriOk (some 0x3FB999999999999A) := fun _ h => by cases h; decide +kernel

theorem briOk_highest : BriOk (some 0x3FF0000000000000) := fun _ h => by cases h; decide +kernel

theorem briBad_below : BriBad (some 0x3FB9999999999999) := ⟨_, rfl, by decide +kernel⟩

theorem briBad_above : BriBad (some 0x3FF0000000000001) := ⟨_, rfl, by decide +kernel⟩

/-- READY, with sixteen black pixels. -/
def stripReady : State :=
  { atReset with
    px := Vector.replicate 16 ⟨0, 0, 0, 31⟩
    lc := .ready
    pinCfg := { atReset.pinCfg with data := .output, clock := .output }
    dataQ := some false
    clkQ := some false
    gpio := [.openPin .data .output .none, .openPin .clock .output .none, .write .data false, .write .clock false] }

/-- A render before its write k. -/
def renderingAt (k : Fin 1740) (i : Instr) (cont : Continuation) : State :=
  { stripReady with rs := .busy k cont, control := ⟨some i, []⟩ }

/-- A render before its first write. -/
def rendering : State := renderingAt 0 .render .respondOk

/-- The instance of the state settled. -/
def instance0 : Monitor := ⟨.monitoring, true, [], 0, 5000, 1000, false⟩

/-- settled, with another instance at another time. -/
def monitoringAt (t : Time) (i : Monitor) : State :=
  { settled with nowMs := t, slots := settled.slots.set .fastForward (some i) }

/-- settled, with a request pending. -/
def pendingOn (s : State) : State := { s with streams := s.streams.set .fastForward ⟨true, 0⟩ }

/-- A state with one coming turn. -/
def withInput (x : Input) (s : State) : State := { s with inputs := [⟨x, false⟩] }

/-- A state with one coming turn, put before any ready request. -/
def withEarly (x : Input) (s : State) : State := { s with inputs := [⟨x, true⟩] }

theorem takesTurn_withInput {x : Input} {s : State} (h : readySlot (withInput x s) = none) :
    TakesTurn (withInput x s) x [] := ⟨false, rfl, .inr h⟩

theorem takesTurn_withEarly (x : Input) (s : State) : TakesTurn (withEarly x s) x [] := ⟨true, rfl, .inl rfl⟩

/-- A request is pending on a settled instance with a queued state: it does not hold any more. -/
def readyRequest : State :=
  { settled with
    slots := settled.slots.set .fastForward (some ⟨.monitoring, true, [true], 500, 5000, 1000, false⟩)
    streams := settled.streams.set .fastForward ⟨true, 0⟩ }

theorem readyRequest_ready : readySlot readyRequest = some .fastForward := by decide

theorem namesNone {w : CommandWord} (h : fieldOp w ≠ 0x9) : ∀ p, ¬ NamesSlot w p := fun _ hp => h hp.1

theorem rendering_stripInv : StripInv rendering :=
  ⟨⟨fun _ => ⟨rfl, rfl, rfl, rfl⟩, fun h => absurd rfl h⟩, ⟨rfl, rfl⟩, rfl, rfl⟩

theorem stripReady_stripInv : StripInv stripReady :=
  ⟨⟨fun _ => ⟨rfl, rfl, rfl, rfl⟩, fun h => absurd rfl h⟩, rfl, fun _ => ⟨rfl, rfl⟩⟩

theorem settled_ticking : Ticking settled .fastForward instance0 := ⟨rfl, rfl, rfl⟩

/-- R61: a tick may come before a request that is ready; by default the request completes first (R179). -/
theorem test_early_turn :
    (next? (step (withEarly (.event 0x011D) readyRequest))).map (fun s => (s.responses, s.signals)) =
      some ([], [.pinChange .fastForward false]) ∧
    (next? (step (withInput (.event 0x011D) readyRequest))).map (fun s => (s.responses, s.signals)) =
      some ([⟨.stream .fastForward, .ok, .record [0x32, 0x39, 0x2C, 0x31, 0x0A]⟩], []) := by decide +kernel

/-- The slot's own turn completes its request, and changes nothing while it holds. -/
theorem test_request_turn :
    (next? (step (withEarly (.request .fastForward) readyRequest))).map (fun s => (s.responses.length, s.inputs)) =
      some (1, []) ∧
    next? (step (withInput (.request .fastForward) (pendingOn settled))) = some (pendingOn settled) := by
  decide +kernel

theorem witness_DecodeOfEncodeIsIdentity : Instr.wellFormed (.setPixel (-2147483648) 1 2 3 none true) = true ∧
    Instr.wellFormed (.nextRecord 2147483647) = true ∧ Instr.wellFormed (.pollTick 255 true) = true := by decide

theorem witness_DecodedInstructionIsWellFormed :
    decode (.command 0x00000000000000008000000000000008) = .ok (.monitorButton (-2147483648)) ∧
    decode (.event 0x01FF) = .ok (.pollTick 255 true) := by decide +kernel

/-- OP = 0xA and 0xF, RSV = 3, and OP = 0x9 with RSV ≠ 0 for no button pin and for one; the last two also where the
scheduler puts the word before a ready request. -/
theorem witness_ReservedWordAnsweredIllegal :
    ([(0x0A : CommandWord), 0x0F, 0xC0, 0x1E00000049].Forall fun w =>
      TakesTurn (withInput (.command w) atReset) (.command w) [] ∧
      TakesTurn (withEarly (.command w) readyRequest) (.command w) [] ∧
      (0xA ≤ (fieldOp w).toNat ∨ fieldRsv w ≠ 0) ∧ (∀ p, ¬ NamesSlot w p) ∧ portFree atReset = true ∧
      atReset.control.waiting = [] ∧ portFree readyRequest = true ∧ readyRequest.control.waiting = []) ∧
    (let w : CommandWord := 0x1F00000049
     TakesTurn (withEarly (.command w) readyRequest) (.command w) [] ∧ fieldRsv w ≠ 0 ∧ NamesSlot w .playPause ∧
      (readyRequest.streams.get .playPause).pending = false) := by
  refine ⟨⟨?_, ?_, ?_, ?_⟩, takesTurn_withEarly .., by decide, by unfold NamesSlot; decide, by decide⟩ <;>
    exact ⟨takesTurn_withInput (by decide), takesTurn_withEarly .., by decide,
      fun p => by unfold NamesSlot; cases p <;> decide, by decide, by decide, by decide, by decide⟩

/-- A busy control port, a free one where a word waits, a stream port with a pending request, a held word's turn in
both forms. -/
theorem witness_ReservedWordAtATakenPort :
    let w : CommandWord := 0x1D00000049
    let s := withInput (.command 0x0A) rendering
    let t := withInput (.command 0x40) { stripReady with control := ⟨none, [.illegal]⟩ }
    let u := withEarly (.command w) readyRequest
    let v : State := { stripReady with control := ⟨none, [.illegal]⟩ }
    (TakesTurn s (.command 0x0A) [] ∧ 0xA ≤ (fieldOp 0x0A).toNat ∧ (∀ p, ¬ NamesSlot 0x0A p) ∧
      portFree s = false) ∧
    (TakesTurn t (.command 0x40) [] ∧ fieldRsv 0x40 ≠ 0 ∧ (∀ p, ¬ NamesSlot 0x40 p) ∧ t.control.waiting ≠ []) ∧
    (TakesTurn u (.command w) [] ∧ fieldRsv w ≠ 0 ∧ NamesSlot w .fastForward ∧
      (u.streams.get .fastForward).pending = true) ∧
    (SequencerTurn (withInput .control v) [] ∧ SequencerTurn v [] ∧ portFree v = true ∧
      v.control.waiting = .illegal :: []) :=
  ⟨⟨takesTurn_withInput (by decide), by decide, namesNone (by decide), by decide⟩,
    ⟨takesTurn_withInput (by decide), by decide, namesNone (by decide), by decide⟩,
    ⟨takesTurn_withEarly .., by decide, by unfold NamesSlot; decide, by decide⟩,
    .inl (takesTurn_withInput (by decide)), .inr ⟨rfl, rfl, by decide⟩, by decide, by decide⟩

/-- CLEAR_ALL with unread fields set, and SET_PIXEL with BP = 0 and BRI set. -/
theorem witness_UnreadFieldsAreIgnored :
    ∀ t ∈ [((0x4014000000000000000000000000FF24 : CommandWord), (0x04 : CommandWord)),
      (0x40140000000000000000000F03020111, 0x00000000000000000000000F03020111)],
    fieldRsv t.1 = 0 ∧ fieldRsv t.2 = 0 ∧ fieldOp t.1 = fieldOp t.2 ∧
    ((fieldOp t.1).toNat ∈ [0, 1, 2, 3] → briOperand t.1 = briOperand t.2) ∧
    ((fieldOp t.1).toNat ∈ [1, 2, 3] → fieldR t.1 = fieldR t.2 ∧ fieldG t.1 = fieldG t.2 ∧ fieldB t.1 = fieldB t.2) ∧
    ((fieldOp t.1).toNat ∈ [1, 2, 3, 4, 6] → fieldF t.1 = fieldF t.2) ∧
    ((fieldOp t.1).toNat ∈ [1, 2, 8, 9] → fieldA t.1 = fieldA t.2) ∧ t.1 ≠ t.2 := by decide

theorem witness_EventWordFields : (511 : EventWord).toNat < 512 ∧ 512 ≤ (512 : EventWord).toNat ∧
    TakesTurn (withInput (.event 512) atReset) (.event 512) [] :=
  ⟨by decide, by decide, takesTurn_withInput (by decide)⟩

theorem witness_EncodedBrightnessRange : validBri 0x3FB999999999999A = true ∧ validBri 0x3FF0000000000000 = true ∧
    (0x3FB999999999999A : Binary64).toNat ≤ (0x3FF0000000000000 : Binary64).toNat := by decide +kernel

theorem witness_EncodingBreakpoints : (4, 0x3FC0842108421084, 3) ∈ breakpoints ∧
    (31, 0x3FF0000000000000, 31) ∈ breakpoints ∧ validBri 0x3FC0842108421083 = true := by decide +kernel

theorem witness_InitOpensAndFills :
    (portFree atReset = true ∧ BriBad (some 0x3FB9999999999999)) ∧
    (portFree stripReady = true ∧ BriOk none ∧ stripReady.lc = .ready) ∧
    (portFree atReset = true ∧ BriOk (some 0x3FB999999999999A) ∧ BriOk none ∧ atReset.lc ≠ .ready) :=
  ⟨⟨rfl, briBad_below⟩, ⟨rfl, briOk_omitted, rfl⟩, rfl, briOk_lowest, briOk_omitted, by decide⟩

theorem witness_SetPixelWritesOnePixel :
    (portFree stripReady = true ∧ stripReady.lc = .ready ∧ portFree atReset = true ∧ atReset.lc ≠ .ready) ∧
    ((-1 : Int) < 0 ∨ 15 < (-1 : Int)) ∧ ((16 : Int) < 0 ∨ 15 < (16 : Int)) ∧
    ((0 : Int) ≤ 0 ∧ (0 : Int) ≤ 15 ∧ (0 : Int) ≤ 15 ∧ (15 : Int) ≤ 15) ∧
    BriBad (some 0x3FF0000000000001) ∧ BriOk (some 0x3FF0000000000000) :=
  ⟨⟨rfl, rfl, rfl, by decide⟩, by decide, by decide, by decide, briBad_above, briOk_highest⟩

theorem witness_SetChannelWritesEightPixels :
    (portFree stripReady = true ∧ stripReady.lc = .ready ∧ portFree atReset = true ∧ atReset.lc ≠ .ready) ∧
    ((2 : Int) ≠ 0 ∧ (2 : Int) ≠ 1) ∧ ((-1 : Int) ≠ 0 ∧ (-1 : Int) ≠ 1) ∧ ((1 : Int) = 0 ∨ (1 : Int) = 1) ∧
    BriBad (some 0x3FB9999999999999) ∧ BriOk none :=
  ⟨⟨rfl, rfl, rfl, by decide⟩, by decide, by decide, by decide, briBad_below, briOk_omitted⟩

theorem witness_SetAllWritesEveryPixel :
    portFree stripReady = true ∧ stripReady.lc = .ready ∧ portFree atReset = true ∧ atReset.lc ≠ .ready ∧
    BriBad (some 0x3FF0000000000001) ∧ BriOk (some 0x3FF0000000000000) :=
  ⟨rfl, rfl, rfl, by decide, briBad_above, briOk_highest⟩

theorem witness_ClearAllKeepsBrightness :
    portFree stripReady = true ∧ stripReady.lc = .ready ∧ portFree atReset = true ∧ atReset.lc ≠ .ready :=
  ⟨rfl, rfl, rfl, by decide⟩

theorem witness_TeardownReleasesThePins :
    (portFree atReset = true ∧ atReset.lc ≠ .ready) ∧ (portFree stripReady = true ∧ stripReady.lc = .ready) ∧
    (let t := renderingAt 1739 (.teardown true) .release
     t.rs = .busy 1739 .release ∧ t.lc ≠ .uninit ∧ SequencerTurn t [] ∧
      (withInput .control t).rs = t.rs ∧ SequencerTurn (withInput .control t) []) :=
  ⟨by decide, by decide, rfl, by decide, .inr ⟨rfl, rfl, by decide⟩, rfl, .inl (takesTurn_withInput (by decide))⟩

theorem witness_RenderStartsTheSequence :
    (portFree atReset = true ∧ atReset.lc ≠ .ready) ∧ (portFree stripReady = true ∧ stripReady.lc = .ready) ∧
    (let t := renderingAt 1739 .render .respondOk
     t.rs = .busy 1739 .respondOk ∧ t.lc ≠ .uninit ∧ SequencerTurn t [] ∧
      (withInput .control t).rs = t.rs ∧ SequencerTurn (withInput .control t) []) :=
  ⟨by decide, by decide, rfl, by decide, .inr ⟨rfl, rfl, by decide⟩, rfl, .inl (takesTurn_withInput (by decide))⟩

theorem witness_BusyPortHoldsCommands : rendering.rs = .busy 0 .respondOk ∧ goesToControl (.nextRecord 30) = true ∧
    goesToControl .getButtonSpecs = true ∧ portFree rendering = false := by decide

theorem witness_FailedCommandChangesNothing :
    ∃ t r, exec .render atReset = .next t ∧ t.responses = atReset.responses ++ [r] ∧ r.code ≠ .ok :=
  ⟨_, ⟨.control, .notReady, .none⟩, rfl, rfl, by decide⟩

/-- The three phases, the last write but one, and the last with both continuations; both forms of the turn. -/
theorem witness_RenderMakesOneWriteAStep :
    [(0, .respondOk), (1, .release), (2, .respondOk), (1738, .release), (1739, .respondOk), (1739, .release)].Forall
      fun t : Fin 1740 × Continuation =>
        let s := renderingAt t.1 .render t.2
        s.rs = .busy t.1 t.2 ∧ s.lc ≠ .uninit ∧ SequencerTurn s [] ∧
          (withInput .control s).rs = s.rs ∧ SequencerTurn (withInput .control s) [] := by
  refine ⟨?_, ?_, ?_, ?_, ?_, ?_⟩ <;>
    exact ⟨rfl, by decide, .inr ⟨rfl, rfl, by decide⟩, rfl, .inl (takesTurn_withInput (by decide))⟩

theorem witness_RenderRunsToCompletion : rendering.rs = .busy 0 .respondOk ∧ rendering.lc ≠ .uninit ∧
    rendering.inputs = [] ∧ readySlot rendering = none := by decide

/-- Before the first write, and before the last. -/
theorem witness_InterleavedRenderStreamsTheFrame :
    ∃ t, StripInv rendering ∧ TraceInv rendering ∧ WireSoFar [] rendering ∧ step rendering = .next t :=
  ⟨_, rendering_stripInv, rfl, rfl, rfl⟩

theorem witness_BusyRenderFreezesTheBuffer :
    (∃ t, rendering.rs = .busy 0 .respondOk ∧ step rendering = .next t) ∧
    (∃ t, (renderingAt 1739 .render .respondOk).rs = .busy 1739 .respondOk ∧
      step (renderingAt 1739 .render .respondOk) = .next t) :=
  ⟨⟨_, rfl, rfl⟩, ⟨_, rfl, rfl⟩⟩

theorem witness_ButtonSpecsAnswered : portFree atReset = true ∧ portFree stripReady = true := by decide

theorem witness_MonitorButtonStartsAnInstance :
    (portFree atReset = true ∧ (30 : Int) ∉ [29, 31, 32, 33, 36, 37] ∧ (16 : Int) ∉ [29, 31, 32, 33, 36, 37]) ∧
    (portFree settled = true ∧ settled.pinCfg.get (.button .fastForward) ≠ .closed) ∧
    (portFree settled = true ∧ settled.pinCfg.get (.button .power) = .closed) := by decide

theorem witness_SettleAfterTheDelay :
    let i : Monitor := { instance0 with monitoring := false }
    let s := withInput (.settle .fastForward) (monitoringAt 1100 i)
    let u := withInput (.settle .fastForward) (monitoringAt 1099 i)
    let v := withEarly (.settle .power) readyRequest
    (TakesTurn s (.settle .fastForward) [] ∧ s.slots.get .fastForward = some i ∧
      i.monitoring = false ∧ 100 ≤ (s.nowMs.toNat : Int) - (i.startMs.toNat : Int)) ∧
    (TakesTurn u (.settle .fastForward) [] ∧ u.slots.get .fastForward = some i ∧
      (u.nowMs.toNat : Int) - (i.startMs.toNat : Int) < 100) ∧
    (TakesTurn v (.settle .power) [] ∧ v.slots.get .power = none) :=
  ⟨⟨takesTurn_withInput (by decide), by decide⟩, ⟨takesTurn_withInput (by decide), by decide⟩,
    takesTurn_withEarly .., by decide⟩

theorem witness_NoTickOutsideMonitoring : 30 ∉ [29, 31, 32, 33, 36, 37] ∧ (∀ i, ¬ Ticking settled .power i) ∧
    (∀ i, ¬ Ticking (monitoringAt 2000 { instance0 with st := .closed }) .fastForward i) :=
  ⟨by decide, fun _ h => (by cases h.1), fun _ h => (by cases h.1; cases h.2.1)⟩

theorem witness_PressTick : Ticking settled .fastForward instance0 := settled_ticking

/-- An elapsed time of exactly 5000, of 5001, and no press recorded. -/
theorem witness_ReleaseTick :
    let i : Monitor := { instance0 with lastPress := 2000 }
    (Ticking (monitoringAt 7000 i) .fastForward i ∧ ¬ Expired (monitoringAt 7000 i) i) ∧
    (Ticking (monitoringAt 7001 i) .fastForward i ∧ Expired (monitoringAt 7001 i) i) ∧
    (Ticking (monitoringAt 7001 instance0) .fastForward instance0 ∧ ¬ Expired (monitoringAt 7001 instance0) instance0) := by
  refine ⟨⟨⟨rfl, rfl, rfl⟩, ?_⟩, ⟨⟨rfl, rfl, rfl⟩, ?_⟩, ⟨rfl, rfl, rfl⟩, ?_⟩ <;> unfold Expired <;> decide

theorem witness_TickQueueAppend : (0 : Nat) < 2 ∧ ({ instance0 with queue := [true, false] } : Monitor).queue.length = 2 ∧
    instance0.queue.length ≠ 2 := by decide

theorem witness_NextRecordPullsTheOldest :
    let closed : Monitor := { instance0 with st := .closed, queue := [true] }
    let young : Monitor := { instance0 with monitoring := false, queue := [true] }
    let full : Monitor := { instance0 with queue := [true, false] }
    (atReset.streams.get .fastForward).pending = false ∧ atReset.params.drainBeforeEnd = false ∧
    (settled.streams.get .fastForward).pending = false ∧
    atReset.slots.get .fastForward = none ∧
    (monitoringAt 2000 closed).slots.get .fastForward = some closed ∧ closed.st = .closed ∧
    (monitoringAt 2000 young).slots.get .fastForward = some young ∧ young.st = .monitoring ∧ young.monitoring = false ∧
    settled.slots.get .fastForward = some instance0 ∧ instance0.queue = [] ∧
    (monitoringAt 2000 full).slots.get .fastForward = some full ∧ full.monitoring = true ∧
    full.queue = true :: [false] ∧
    (let s : State := { monitoringAt 2000 full with params := ⟨7, 5000, .unbounded, true⟩ }
     (s.streams.get .fastForward).pending = false ∧ s.params.drainBeforeEnd = true ∧
      s.slots.get .fastForward = some full) := by decide

theorem witness_NextRecordElsewhere : portFree atReset = true ∧ (30 : Int) ∉ [29, 31, 32, 33, 36, 37] ∧
    ((pendingOn settled).streams.get .fastForward).pending = true := by decide

theorem witness_DrainBeforeEnd :
    let s : Monitor → State := fun i => { monitoringAt 9000 i with params := ⟨7, 5000, .unbounded, true⟩ }
    let dry : Monitor := { instance0 with st := .closed }
    let full : Monitor := { instance0 with st := .closed, queue := [true, false] }
    ((s dry).streams.get .fastForward).pending = false ∧ (s dry).params.drainBeforeEnd = true ∧
    (s dry).slots.get .fastForward = some dry ∧ dry.st = .closed ∧ dry.queue = [] ∧
    (s full).slots.get .fastForward = some full ∧ full.st = .closed ∧ full.queue = true :: [false] := by decide

/-- With no turn left, before a turn, at its own turn, and at a turn while it holds or where none is pending. -/
theorem witness_HeldRequestCompletesAtOnce :
    let s := withInput (.clock 9) readyRequest
    let v := withInput (.request .fastForward) readyRequest
    let w := withEarly (.request .fastForward) readyRequest
    let x := withInput (.request .fastForward) (pendingOn settled)
    let y := withInput (.request .power) settled
    (∃ u, ButtonPin.all = [] ++ .fastForward :: [.playPause, .rewind, .volUp, .volDown, .power] ∧
      (s.streams.get .fastForward).pending = true ∧ evalRequest .fastForward s = some u ∧
      readyRequest.inputs = [] ∧ s.inputs = ⟨.clock 9, false⟩ :: []) ∧
    (∃ u, (w.streams.get .fastForward).pending = true ∧ evalRequest .fastForward w = some u ∧
      TakesTurn w (.request .fastForward) [] ∧ v.inputs = ⟨.request .fastForward, false⟩ :: []) ∧
    (TakesTurn x (.request .fastForward) [] ∧ evalRequest .fastForward x = none) ∧
    (TakesTurn y (.request .power) [] ∧ (y.streams.get .power).pending = false) :=
  ⟨⟨_, rfl, rfl, rfl, rfl, rfl⟩, ⟨_, rfl, rfl, takesTurn_withEarly .., rfl⟩,
    ⟨takesTurn_withInput (by decide), rfl⟩, takesTurn_withInput (by decide), rfl⟩

/-- A release exactly at the timeout. -/
theorem witness_ShortPressQueuesTwoRecords : Ticking settled .fastForward instance0 ∧
    settled.params.queueCap = .unbounded ∧
    ((6000 : Time).toNat : Int) - (settled.nowMs.toNat : Int) ≤ instance0.idleTimeoutMs :=
  ⟨settled_ticking, by decide, by decide⟩

/-- A release one millisecond past the timeout. -/
theorem witness_LongPressEndsTheStream : Ticking settled .fastForward instance0 ∧ 0 < settled.nowMs.toNat ∧
    (instance0.idleTimeoutMs : Int) < ((6001 : Time).toNat : Int) - (settled.nowMs.toNat : Int) ∧
    settled.params.drainBeforeEnd = false ∧ (settled.streams.get .fastForward).pending = false :=
  ⟨settled_ticking, by decide, by decide, by decide, by decide⟩

theorem witness_TeardownHangIsKept :
    let s := pendingOn { settled with pinCfg := atReset.pinCfg }
    ∃ t, Hung s .fastForward instance0 ∧ step s = .next t :=
  ⟨_, ⟨rfl, rfl, rfl, rfl, rfl, rfl⟩, rfl⟩

/-- A word on the control port, one on the stream port of a slot with words held at the control port, and both before
a ready request. -/
theorem witness_StepRunsTheArrivedCommand :
    let w : CommandWord := 0x00000000000000000000001D00000009
    let busy : State := { rendering with control := ⟨some .render, [.command .render]⟩ }
    (TakesTurn (withInput (.command 0x07) atReset) (.command 0x07) [] ∧
      TakesTurn (withEarly (.command 0x07) readyRequest) (.command 0x07) [] ∧
      decode (.command 0x07) = .ok .getButtonSpecs ∧ (∀ p, ¬ NamesSlot 0x07 p) ∧ atReset.control.waiting = [] ∧
      readyRequest.control.waiting = []) ∧
    (TakesTurn (withInput (.command w) busy) (.command w) [] ∧
      TakesTurn (withEarly (.command w) readyRequest) (.command w) [] ∧ decode (.command w) = .ok (.nextRecord 29) ∧
      NamesSlot w .fastForward) :=
  ⟨⟨takesTurn_withInput (by decide), takesTurn_withEarly .., by decide, namesNone (by decide), by decide, by decide⟩,
    takesTurn_withInput (by decide), takesTurn_withEarly .., by decide, by unfold NamesSlot; decide⟩

theorem witness_StepDeliversTheTick : TakesTurn (withInput (.event 0x011D) settled) (.event 0x011D) [] ∧
    TakesTurn (withEarly (.event 0x011D) readyRequest) (.event 0x011D) [] ∧
    decode (.event 0x011D) = .ok (.pollTick 29 true) :=
  ⟨takesTurn_withInput (by decide), takesTurn_withEarly .., by decide⟩

theorem witness_HeldWordsKeepTheirOrder :
    let s := withInput (.command 0x07) { rendering with control := ⟨some .render, [.command .render]⟩ }
    let u : State := { stripReady with control := ⟨none, [.command .render]⟩ }
    (TakesTurn s (.command 0x07) [] ∧ decode (.command 0x07) = .ok .getButtonSpecs ∧ (∀ p, ¬ NamesSlot 0x07 p) ∧
      s.control.waiting ≠ []) ∧
    (SequencerTurn (withInput .control u) [] ∧ SequencerTurn u [] ∧ portFree u = true ∧
      u.control.waiting = .command .render :: []) :=
  ⟨⟨takesTurn_withInput (by decide), by decide, namesNone (by decide), by decide⟩,
    .inl (takesTurn_withInput (by decide)), .inr ⟨rfl, rfl, by decide⟩, by decide, by decide⟩

theorem witness_StepKeepsStripInvariant :
    ∃ t u, StripInv rendering ∧ step rendering = .next t ∧ StripInv stripReady ∧
      step (withInput (.command 0x05) stripReady) = .next u :=
  ⟨_, _, rendering_stripInv, rfl, stripReady_stripInv, rfl⟩

theorem witness_StepKeepsStoredBrightness : ∃ t, BriInv stripReady ∧ step stripReady = .next t :=
  ⟨_, by unfold BriInv; decide, rfl⟩

theorem settled_monitorInv : MonitorInv settled := by
  intro p
  cases p
  · exact ⟨by decide, fun _ => ⟨_, rfl, rfl⟩, fun i h => (by cases h; exact ⟨rfl, rfl, fun h => (by cases h)⟩),
      fun h => (by cases h), fun h => (by cases h)⟩
  all_goals
    exact ⟨by decide, fun h => (by cases h), fun i h => (by cases h), fun h => (by cases h), fun h => (by cases h)⟩

theorem witness_StepKeepsMonitorInvariant :
    ∃ t, MonitorInv settled ∧ step (withInput (.event 0x001D) settled) = .next t :=
  ⟨_, settled_monitorInv, rfl⟩

theorem witness_StepKeepsTraceLevels : ∃ t, TraceInv rendering ∧ step rendering = .next t := ⟨_, rfl, rfl⟩

theorem witness_NoValueIsNeverRead : StripInv rendering := rendering_stripInv

theorem witness_InstancesOnlyMoveForward : ∃ t j, settled.slots.get .fastForward = some instance0 ∧
    step settled = .next t ∧ t.slots.get .fastForward = some j := ⟨_, _, rfl, rfl, rfl⟩

theorem witness_QueuesAreFirstInFirstOut : ∃ t j, settled.slots.get .fastForward = some instance0 ∧
    step (withInput (.event 0x001D) settled) = .next t ∧ t.slots.get .fastForward = some j := ⟨_, _, rfl, rfl, rfl⟩

theorem witness_TracesOnlyGrow : ∃ t, step rendering = .next t := ⟨_, rfl⟩

theorem witness_ClockIsTheEnvironments : TakesTurn (withInput (.clock 2000) atReset) (.clock 2000) [] ∧
    TakesTurn (withEarly (.clock 0) readyRequest) (.clock 0) [] ∧
    ∃ t, step (withInput (.clock 2000) atReset) = .next t :=
  ⟨takesTurn_withInput (by decide), takesTurn_withEarly .., _, rfl⟩

theorem witness_LifecycleMoves : ∃ t, step (withInput (.command 0x06) stripReady) = .next t := ⟨_, rfl⟩

theorem witness_SlotStepsLeaveTheRest : ∃ t u, exec (.nextRecord (ButtonPin.number .fastForward)) settled = .next t ∧
    exec (.pollTick (ButtonPin.number .fastForward) true) settled = .next u := ⟨_, _, rfl, rfl⟩

theorem witness_StripCommandsLeaveTheMonitors : ∃ t u, exec (.teardown true) stripReady = .next t ∧
    exec .getButtonSpecs stripReady = .next u := ⟨_, _, rfl, rfl⟩

end Sys2Proof.Tests
end

/-! SUPPORT AND PROOFS of the statements about the state (spec/10_state.md): what a step does to the strip, to one
slot, to the traces and to the clock, and the invariants that follow. -/

/-! ## What a step does to the strip -/

namespace Sys2Proof.Proofs

open Sys2Proof.Machine

/-- The strip is the same in both states: the buffer, LC, the two strip pins and their levels, RS and the command in
progress. -/
structure SameStrip (s t : State) : Prop where
  px : t.px = s.px
  lc : t.lc = s.lc
  dataPin : t.pinCfg.data = s.pinCfg.data
  clockPin : t.pinCfg.clock = s.pinCfg.clock
  dataQ : t.dataQ = s.dataQ
  clkQ : t.clkQ = s.clkQ
  rs : t.rs = s.rs
  inProgress : t.control.inProgress = s.control.inProgress

/-- The actions that change the strip. -/
inductive StripAction : State → State → Prop where
  | init (s : State) (e : Bri) (free : portFree s = true) (closed : s.lc ≠ .ready)
      (he : (∃ x, validBri x = true ∧ e = encBri x) ∨ e = BitVec.ofNat 6 s.params.defaultBri.val) :
      StripAction s (initStrip e s)
  | painted (s : State) (i : Instr) (f : Bool) (sel : Fin pixelCount → Bool) (r g b : Byte) (e : Option Bri)
      (free : portFree s = true) (ready : s.lc = .ready)
      (he : ∀ e', e = some e' → ∃ x, validBri x = true ∧ e' = encBri x) :
      StripAction s (finish i f (paint sel r g b e s))
  | render (s : State) (free : portFree s = true) (ready : s.lc = .ready) :
      StripAction s (startRender .render .respondOk s)
  | teardown (s : State) (i : Instr) (free : portFree s = true) (ready : s.lc = .ready) :
      StripAction s (startRender i .release (blacken s))
  | release (s : State) (free : portFree s = true) : StripAction s (release s)
  | write (s : State) (k : Fin renderWrites) (cont : Continuation) (busy : s.rs = .busy k cont)
      (value : s.lc ≠ .uninit) :
      StripAction s (advanceRender k cont (gpioWrite (renderWrite s.px k.val).1 (renderWrite s.px k.val).2 s))

theorem sameStrip_popped {s t : State} (h : Popped s t) : SameStrip s t := by
  obtain ⟨inputs, waiting, -, -, rfl⟩ := h
  constructor <;> rfl

theorem sameStrip_tickInstance (p : ButtonPin) (level : Bool) (i : Monitor) (s : State) :
    SameStrip s (tickInstance p level i s) := by
  rcases tickInstance_cases p level i s with ⟨-, h⟩ | ⟨-, -, h⟩ | ⟨-, -, h⟩ <;> rw [h] <;> constructor <;> rfl

theorem sameStrip_respond (port : PortId) (code : Code) (payload : Payload) (s : State) :
    SameStrip s (respond port code payload s) := by constructor <;> rfl

theorem sameStrip_service {p : ButtonPin} {s t : State} (h : Service p s t) : SameStrip s t := by
  cases h <;> constructor <;> rfl

/-- An action leaves the strip as it is, or is one of the strip's. -/
theorem action_strip {s t : State} (h : Action s t) : SameStrip s t ∨ StripAction s t := by
  cases h with
  | init e free closed he => exact .inr (.init s e free closed he)
  | painted i f sel r g b e free ready he => exact .inr (.painted s i f sel r g b e free ready he)
  | render free ready => exact .inr (.render s free ready)
  | teardown i free ready => exact .inr (.teardown s i free ready)
  | release free => exact .inr (.release s free)
  | write k cont busy value => exact .inr (.write s k cont busy value)
  | tick p level i => exact .inl (sameStrip_tickInstance p level i s)
  | answer | hold | startMonitor | settle | clock | deliver | holdRequest =>
    refine .inl ?_
    constructor <;> rfl

/-- Everything a step can do to the strip. -/
theorem step_strip {s t : State} (h : step s = .next t) :
    SameStrip s t ∨ ∃ s', SameStrip s s' ∧ StripAction s' t := by
  obtain ⟨s', hp, he⟩ := step_cases h
  have hs := sameStrip_popped hp
  have trans : SameStrip s' t → SameStrip s t := fun ht =>
    ⟨ht.px.trans hs.px, ht.lc.trans hs.lc, ht.dataPin.trans hs.dataPin, ht.clockPin.trans hs.clockPin,
      ht.dataQ.trans hs.dataQ, ht.clkQ.trans hs.clkQ, ht.rs.trans hs.rs, ht.inProgress.trans hs.inProgress⟩
  rcases he with rfl | ha | ⟨p, hv⟩
  · exact .inl hs
  · exact (action_strip ha).imp trans fun ha => ⟨s', hs, ha⟩
  · exact .inl (trans (sameStrip_service hv))

/-- A property of the strip that the strip's actions keep is kept by every step. -/
theorem step_keeps_strip {P : State → Prop} (frame : ∀ {s t}, SameStrip s t → P s → P t)
    (act : ∀ {s t}, P s → StripAction s t → P t) {s t : State} (hs : P s) (h : step s = .next t) : P t := by
  rcases step_strip h with hst | ⟨s', hs', ha⟩
  · exact frame hst hs
  · exact act (frame hs' hs) ha

/-- RS after a write: the next write, or IDLE and the continuation after write 1739 (R144). -/
theorem advanceRender_cases (k : Fin renderWrites) (cont : Continuation) (s : State) :
    (∃ h : k.val + 1 < renderWrites, advanceRender k cont s = { s with rs := .busy ⟨k.val + 1, h⟩ cont }) ∨
    (k.val = 1739 ∧ advanceRender k cont s = continueWith cont { s with rs := .idle }) := by
  unfold advanceRender
  split
  · rename_i h; exact .inl ⟨h, rfl⟩
  · rename_i h
    have hk := k.isLt
    exact .inr ⟨by simp only [renderWrites] at h hk; omega, rfl⟩

/-! ## The strip invariant -/

theorem stripInv_of_sameStrip {s t : State} (h : SameStrip s t) (hs : StripInv s) : StripInv t := by
  simp only [StripInv, StripPinsInv, ControlInv, LevelsInv, h.px, h.lc, h.dataPin, h.clockPin, h.dataQ, h.clkQ, h.rs,
    h.inProgress]
  exact hs

/-- Between renders no command is in progress, and the strip is driven low or released (R24 to R27). -/
theorem stripInv_idle_iff {s : State} (h : s.rs = .idle) :
    StripInv s ↔ s.control.inProgress = none ∧
      (s.lc = .ready → s.pinCfg.data = .output ∧ s.pinCfg.clock = .output ∧ s.dataQ = some false ∧
        s.clkQ = some false) ∧
      (s.lc ≠ .ready → s.pinCfg.data = .closed ∧ s.pinCfg.clock = .closed ∧ s.dataQ = none ∧ s.clkQ = none) := by
  simp only [StripInv, StripPinsInv, ControlInv, LevelsInv, h]
  constructor
  · rintro ⟨⟨hr, hc⟩, hp, hl⟩
    exact ⟨hp, fun hlc => ⟨(hr hlc).1, (hr hlc).2.1, hl hlc⟩, hc⟩
  · rintro ⟨hp, hr, hc⟩
    refine ⟨⟨fun hlc => ?_, hc⟩, hp, fun hlc => (hr hlc).2.2⟩
    obtain ⟨hd, hk, hdq, hkq⟩ := hr hlc
    exact ⟨hd, hk, by simp [hdq], by simp [hkq]⟩

/-- Before write k of a render the strip is READY, a command is in progress, and the levels are those of the phase
(R26, R27, R145). -/
theorem stripInv_busy_iff {s : State} {k : Fin renderWrites} {cont : Continuation} (h : s.rs = .busy k cont) :
    StripInv s ↔ s.lc = .ready ∧ s.control.inProgress.isSome ∧ s.pinCfg.data = .output ∧ s.pinCfg.clock = .output ∧
      s.dataQ = some (lastDataBit s.px k.val) ∧ s.clkQ = some (decide (k.val % 3 = 2)) := by
  simp only [StripInv, StripPinsInv, ControlInv, LevelsInv, h]
  constructor
  · rintro ⟨⟨hr, -⟩, ⟨hlc, hp⟩, hl⟩
    exact ⟨hlc, hp, (hr hlc).1, (hr hlc).2.1, hl⟩
  · rintro ⟨hlc, hp, hd, hk, hdq, hkq⟩
    exact ⟨⟨fun _ => ⟨hd, hk, by simp [hdq], by simp [hkq]⟩, fun hn => absurd hlc hn⟩, ⟨hlc, hp⟩, hdq, hkq⟩

theorem stripInv_initStrip (e : Bri) {s : State} (hf : portFree s = true) : StripInv (initStrip e s) := by
  obtain ⟨hrs, hip⟩ := portFree_iff.mp hf
  exact (stripInv_idle_iff (s := initStrip e s) hrs).mpr ⟨hip, fun _ => ⟨rfl, rfl, rfl, rfl⟩, fun h => absurd rfl h⟩

/-- Between renders the invariant does not read the buffer. -/
theorem stripInv_paint {sel : Fin pixelCount → Bool} {r g b : Byte} {e : Option Bri} {s : State}
    (hf : portFree s = true) (hs : StripInv s) : StripInv (paint sel r g b e s) :=
  have hrs := (portFree_iff.mp hf).1
  (stripInv_idle_iff (by simpa using hrs)).mpr (by simpa using (stripInv_idle_iff hrs).mp hs)

theorem portFree_paint (sel : Fin pixelCount → Bool) (r g b : Byte) (e : Option Bri) (s : State) :
    portFree (paint sel r g b e s) = portFree s := by simp [portFree]

theorem stripInv_blacken {s : State} (hf : portFree s = true) (hs : StripInv s) : StripInv (blacken s) := by
  unfold blacken
  exact stripInv_paint hf hs

theorem stripInv_startRender {i : Instr} {cont : Continuation} {s : State} (hf : portFree s = true)
    (hr : s.lc = .ready) (hs : StripInv s) : StripInv (startRender i cont s) := by
  obtain ⟨-, hready, -⟩ := (stripInv_idle_iff (portFree_iff.mp hf).1).mp hs
  obtain ⟨hd, hk, hdq, hkq⟩ := hready hr
  exact (stripInv_busy_iff (startRender_rs i cont s)).mpr ⟨hr, rfl, hd, hk, hdq, hkq⟩

theorem releasedLc_ne_ready (lc : Lifecycle) : releasedLc lc ≠ .ready := by cases lc <;> decide

theorem stripInv_release {s : State} (h : s.rs = .idle) : StripInv (release s) :=
  (stripInv_idle_iff (by simpa using h)).mpr
    ⟨by simp, fun hr => absurd (by simpa using hr) (releasedLc_ne_ready s.lc), fun _ => by simp⟩

theorem lastDataBit_succ (px : Vector Pixel pixelCount) (k : Nat) : lastDataBit px (k + 1) = frameBit px (k / 3) := by
  simp [lastDataBit]

/-- In the clock phases the data bit on the line is that of the same triple of writes. -/
theorem lastDataBit_of_mod_ne_zero (px : Vector Pixel pixelCount) {k : Nat} (h : k % 3 ≠ 0) :
    lastDataBit px k = frameBit px (k / 3) := by
  have hk : k ≠ 0 := by omega
  have hd : (k - 1) / 3 = k / 3 := by omega
  simp [lastDataBit, hk, hd]

/-- Write k takes the levels of its phase to those of the next write (R145). -/
theorem levels_after_renderWrite {s : State} {k : Nat} (hd : s.dataQ = some (lastDataBit s.px k))
    (hc : s.clkQ = some (decide (k % 3 = 2))) :
    (gpioWrite (renderWrite s.px k).1 (renderWrite s.px k).2 s).dataQ = some (lastDataBit s.px (k + 1)) ∧
    (gpioWrite (renderWrite s.px k).1 (renderWrite s.px k).2 s).clkQ = some (decide ((k + 1) % 3 = 2)) := by
  rw [lastDataBit_succ]
  obtain h | h | h : k % 3 = 0 ∨ k % 3 = 1 ∨ k % 3 = 2 := by omega
  · have hn : ¬ (k + 1) % 3 = 2 := by omega
    simp [renderWrite, h, hn, hc]
  · have hn : (k + 1) % 3 = 2 := by omega
    simp [renderWrite, h, hn, hd, lastDataBit_of_mod_ne_zero]
  · have hn : ¬ (k + 1) % 3 = 2 := by omega
    simp [renderWrite, h, hn, hd, lastDataBit_of_mod_ne_zero]

theorem stripInv_write {s : State} {k : Fin renderWrites} {cont : Continuation} (hrs : s.rs = .busy k cont)
    (hs : StripInv s) :
    StripInv (advanceRender k cont (gpioWrite (renderWrite s.px k.val).1 (renderWrite s.px k.val).2 s)) := by
  obtain ⟨hlc, hip, hd, hk, hdq, hkq⟩ := (stripInv_busy_iff hrs).mp hs
  obtain ⟨hdq', hkq'⟩ := levels_after_renderWrite hdq hkq
  rcases advanceRender_cases k cont (gpioWrite (renderWrite s.px k.val).1 (renderWrite s.px k.val).2 s) with
    ⟨h, he⟩ | ⟨hlast, he⟩ <;> rw [he]
  · exact (stripInv_busy_iff rfl).mpr (by simp [hlc, hip, hd, hk, hdq', hkq'])
  · rw [hlast] at hdq' hkq'
    cases cont with
    | release => exact stripInv_release rfl
    | respondOk =>
      refine (stripInv_idle_iff rfl).mpr ⟨rfl, fun _ => ?_, fun hn => absurd (by simpa [continueWith] using hlc) hn⟩
      refine ⟨by simpa [continueWith] using hd, by simpa [continueWith] using hk, ?_, ?_⟩
      · simpa [continueWith, hlast, lastDataBit, frameBit] using hdq'
      · simpa [continueWith, hlast] using hkq'

theorem stripInv_action {s t : State} (hs : StripInv s) (h : StripAction s t) : StripInv t := by
  cases h with
  | init e free => exact stripInv_initStrip e free
  | painted i f sel r g b e free ready =>
    have hp := stripInv_paint (sel := sel) (r := r) (g := g) (b := b) (e := e) free hs
    cases f with
    | false => exact stripInv_of_sameStrip (sameStrip_respond ..) hp
    | true => exact stripInv_startRender (by rwa [portFree_paint]) (by rwa [paint_lc]) hp
  | render free ready => exact stripInv_startRender free ready hs
  | teardown i free ready => 
    exact stripInv_startRender (by rwa [blacken, portFree_paint]) (by rwa [blacken_lc]) (stripInv_blacken free hs)
  | release free => exact stripInv_release (portFree_iff.mp free).1
  | write k cont busy => exact stripInv_write busy hs

/-- Settles O48: the strip's actions keep the invariant, and every other change leaves the strip as it is. -/
theorem stepKeepsStripInvariant : Obligations.StepKeepsStripInvariant :=
  fun _ _ => step_keeps_strip stripInv_of_sameStrip stripInv_action

/-! ## The stored brightness -/

theorem times31_flOne : times31 flOne = 31 * 2 ^ 1074 := by decide +kernel

/-- A valid brightness is at most 1.0 in magnitude: it is above a positive value, so its sign is 0 (R100). -/
theorem b64Magnitude_le_of_validBri {b : Binary64} (h : validBri b = true) : b64Magnitude b ≤ b64Magnitude flOne := by
  simp only [validBri, b64Le, Bool.and_eq_true, decide_eq_true_eq] at h
  obtain ⟨⟨-, -, hlo⟩, -, hhi⟩ := h
  have hpos : 0 < b64Units flTenth := by decide +kernel
  have hone : b64Units flOne = b64Magnitude flOne := by decide +kernel
  have hb : b64Units b = -(b64Magnitude b : Int) ∨ b64Units b = b64Magnitude b := by
    unfold b64Units
    split
    · exact .inl rfl
    · exact .inr rfl
  omega

theorem encBri_le {b : Binary64} (h : validBri b = true) : (encBri b).toNat ≤ 31 := by
  have ht : times31 b ≤ 31 * 2 ^ 1074 := by
    rw [← times31_flOne]
    exact roundNearestEven_mono (Nat.mul_le_mul_left 31 (b64Magnitude_le_of_validBri h))
  have hdiv : times31 b / 2 ^ 1074 ≤ 31 := Nat.div_le_of_le_mul (by rwa [Nat.mul_comm])
  calc (encBri b).toNat ≤ times31 b / 2 ^ 1074 &&& 63 := by
        rw [encBri, BitVec.toNat_ofNat]; exact Nat.mod_le _ _
    _ ≤ times31 b / 2 ^ 1074 := Nat.and_le_left
    _ ≤ 31 := hdiv

theorem briInv_of_sameStrip {s t : State} (h : SameStrip s t) (hs : BriInv s) : BriInv t := by
  unfold BriInv
  rw [h.px]
  exact hs

theorem briInv_initStrip {e : Bri} {s : State} (he : e.toNat ≤ 31) : BriInv (initStrip e s) := by
  intro i
  simpa [initStrip] using he

theorem briInv_paint {sel : Fin pixelCount → Bool} {r g b : Byte} {e : Option Bri} {s : State}
    (he : ∀ e', e = some e' → e'.toNat ≤ 31) (hs : BriInv s) : BriInv (paint sel r g b e s) := by
  intro i
  rw [paint_px_getElem]
  split
  · cases e with
    | none => exact hs i
    | some e' => exact he e' rfl
  · exact hs i

theorem briInv_blacken {s : State} (hs : BriInv s) : BriInv (blacken s) := by
  unfold blacken
  exact briInv_paint (by simp) hs

theorem finish_px (i : Instr) (f : Bool) (s : State) : (finish i f s).px = s.px := by
  cases f <;> simp [finish]

theorem continueWith_px (cont : Continuation) (s : State) : (continueWith cont s).px = s.px := by
  cases cont <;> simp [continueWith]

theorem advanceRender_px (k : Fin renderWrites) (cont : Continuation) (s : State) :
    (advanceRender k cont s).px = s.px := by
  rcases advanceRender_cases k cont s with ⟨_, h⟩ | ⟨_, h⟩ <;> rw [h]
  exact continueWith_px cont _

theorem briInv_action {s t : State} (hs : BriInv s) (h : StripAction s t) : BriInv t := by
  cases h with
  | init e free closed he =>
    refine briInv_initStrip ?_
    rcases he with ⟨x, hx, rfl⟩ | rfl
    · exact encBri_le hx
    · have := s.params.defaultBri.isLt
      rw [BitVec.toNat_ofNat]
      omega
  | painted i f sel r g b e free ready he =>
    unfold BriInv
    rw [finish_px]
    refine briInv_paint (fun e' h' => ?_) hs
    obtain ⟨x, hx, rfl⟩ := he e' h'
    exact encBri_le hx
  | render => unfold BriInv; rwa [startRender_px]
  | teardown => unfold BriInv; rw [startRender_px]; exact briInv_blacken hs
  | release => unfold BriInv; rwa [release_px]
  | write => unfold BriInv; rwa [advanceRender_px, gpioWrite_px]

/-- Settles O49: the brightness written is ENC of a valid operand, P_DEFAULT_BRI, or the stored one. -/
theorem stepKeepsStoredBrightness : Obligations.StepKeepsStoredBrightness :=
  fun _ _ => step_keeps_strip briInv_of_sameStrip briInv_action

/-! ## The life cycle -/

theorem releasedLc_moves (lc : Lifecycle) : releasedLc lc = lc ∨ (lc = .ready ∧ releasedLc lc = .released) := by
  cases lc <;> decide

theorem advanceRender_lc (k : Fin renderWrites) (cont : Continuation) (s : State) :
    (advanceRender k cont s).lc = s.lc ∨ (advanceRender k cont s).lc = releasedLc s.lc := by
  rcases advanceRender_cases k cont s with ⟨_, h⟩ | ⟨_, h⟩ <;> rw [h]
  · exact .inl rfl
  · cases cont with
    | respondOk => exact .inl rfl
    | release => exact .inr (by simp [continueWith])

theorem finish_lc (i : Instr) (f : Bool) (s : State) : (finish i f s).lc = s.lc := by
  cases f <;> simp [finish]

theorem stripAction_lc {s t : State} (h : StripAction s t) :
    t.lc = s.lc ∨ (s.lc ≠ .ready ∧ t.lc = .ready) ∨ (s.lc = .ready ∧ t.lc = .released) := by
  cases h with
  | init e free closed => exact .inr (.inl ⟨closed, rfl⟩)
  | painted => exact .inl (by rw [finish_lc, paint_lc])
  | render => exact .inl rfl
  | teardown => exact .inl (by rw [startRender_lc, blacken_lc])
  | release => rw [release_lc]; exact (releasedLc_moves s.lc).imp_right .inr
  | write k cont =>
    rcases advanceRender_lc k cont (gpioWrite (renderWrite s.px k.val).1 (renderWrite s.px k.val).2 s) with h | h <;>
      rw [h, gpioWrite_lc]
    · exact .inl rfl
    · exact (releasedLc_moves s.lc).imp_right .inr

/-- Settles O57: only INIT, outside READY, and RELEASE write LC. -/
theorem lifecycleMoves : Obligations.LifecycleMoves := by
  intro s t h
  rcases step_strip h with hst | ⟨s', hs', ha⟩
  · exact .inl hst.lc
  · rw [← hs'.lc]
    exact stripAction_lc ha

end Sys2Proof.Proofs

/-! ## What a step does to one slot -/

namespace Sys2Proof.Proofs

open Sys2Proof.Machine Sys2Proof.Claims

/-- Slot q is left alone: its instance and its stream port are kept, and its pin is kept or closed. -/
structure SlotFrame (q : ButtonPin) (s t : State) : Prop where
  pin : t.pinCfg.buttons.get q = s.pinCfg.buttons.get q ∨ t.pinCfg.buttons.get q = .closed
  slot : t.slots.get q = s.slots.get q
  stream : t.streams.get q = s.streams.get q
  params : t.params = s.params

/-- What changes slot q: the actions on it, and the completion of its held request. -/
inductive SlotAction (q : ButtonPin) : State → State → Prop where
  | start (s : State) (closed : s.pinCfg.get (.button q) = .closed) : SlotAction q s (startMonitor q s)
  | tick (s : State) (level : Bool) (i : Monitor) (slot : s.slots.get q = some i) (st : i.st = .monitoring) :
      SlotAction q s (tickInstance q level i s)
  | settle (s : State) (i : Monitor) (slot : s.slots.get q = some i) :
      SlotAction q s (emit (.monitoring q) (setSlot q { i with monitoring := true } s))
  | deliver (s : State) (i : Monitor) (v : Bool) (rest : List Bool) (slot : s.slots.get q = some i)
      (queue : i.queue = v :: rest) : SlotAction q s (deliver q i v rest s)
  | hold (s : State) (h : (s.streams.get q).pending = true ∨ (s.slots.get q).isSome = true) :
      SlotAction q s (holdRequest q s)
  | serve {s t : State} (h : Service q s t) : SlotAction q s t

theorem slotFrame_popped (q : ButtonPin) {s t : State} (h : Popped s t) : SlotFrame q s t := by
  obtain ⟨inputs, waiting, -, -, rfl⟩ := h
  exact ⟨.inl rfl, rfl, rfl, rfl⟩

theorem slotFrame_finish (q : ButtonPin) (i : Instr) (f : Bool) (s : State) : SlotFrame q s (finish i f s) := by
  cases f <;> exact ⟨.inl rfl, rfl, rfl, rfl⟩

/-- RELEASE closes every button pin and leaves the instances and the stream ports (R111). -/
theorem slotFrame_release (q : ButtonPin) (s : State) : SlotFrame q s (release s) :=
  ⟨.inr (by simp), by simp, by simp, by simp⟩

theorem slotFrame_advanceRender (q : ButtonPin) (k : Fin renderWrites) (cont : Continuation) (s : State) :
    SlotFrame q s (advanceRender k cont s) := by
  rcases advanceRender_cases k cont s with ⟨_, h⟩ | ⟨_, h⟩ <;> rw [h]
  · exact ⟨.inl rfl, rfl, rfl, rfl⟩
  · cases cont with
    | respondOk => exact ⟨.inl rfl, rfl, rfl, rfl⟩
    | release => exact ⟨.inr (by simp [continueWith]), by simp [continueWith], by simp [continueWith],
        by simp [continueWith]⟩

theorem slotFrame_tickInstance {p q : ButtonPin} (hne : q ≠ p) (level : Bool) (i : Monitor) (s : State) :
    SlotFrame q s (tickInstance p level i s) := by
  rcases tickInstance_cases p level i s with ⟨-, h⟩ | ⟨-, -, h⟩ | ⟨-, -, h⟩ <;> rw [h] <;> constructor <;>
    simp [closeMonitor, hne]

theorem slotFrame_service {p q : ButtonPin} (hne : q ≠ p) {s t : State} (h : Service p s t) : SlotFrame q s t := by
  cases h <;> constructor <;> simp [deliver, hne]

/-- An action leaves slot q alone, or is one on it. -/
theorem action_slot (q : ButtonPin) {s t : State} (h : Action s t) : SlotFrame q s t ∨ SlotAction q s t := by
  cases h with
  | answer | hold | init | render | clock => exact .inl ⟨.inl rfl, rfl, rfl, rfl⟩
  | painted i f sel r g b e =>
    obtain ⟨hp, hs, hq, hr⟩ := slotFrame_finish q i f (paint sel r g b e s)
    exact .inl ⟨by simpa using hp, by simpa using hs, by simpa using hq, by simpa using hr⟩
  | teardown => exact .inl ⟨.inl (by simp), by simp, by simp, by simp⟩
  | release => exact .inl (slotFrame_release q s)
  | write k cont =>
    obtain ⟨hp, hs, hq, hr⟩ := slotFrame_advanceRender q k cont
      (gpioWrite (renderWrite s.px k.val).1 (renderWrite s.px k.val).2 s)
    exact .inl ⟨by simpa using hp, by simpa using hs, by simpa using hq, by simpa using hr⟩
  | startMonitor p free closed =>
    by_cases hqp : q = p
    · subst hqp; exact .inr (.start s closed)
    · exact .inl ⟨.inl (by simp [startMonitor, hqp]), by simp [startMonitor, hqp], rfl, rfl⟩
  | tick p level i slot st =>
    by_cases hqp : q = p
    · subst hqp; exact .inr (.tick s level i slot st)
    · exact .inl (slotFrame_tickInstance hqp level i s)
  | settle p i slot =>
    by_cases hqp : q = p
    · subst hqp; exact .inr (.settle s i slot)
    · exact .inl ⟨.inl rfl, by simp [hqp], rfl, rfl⟩
  | deliver p i v rest slot queue =>
    by_cases hqp : q = p
    · subst hqp; exact .inr (.deliver s i v rest slot queue)
    · exact .inl ⟨.inl rfl, by simp [Machine.deliver, hqp], rfl, rfl⟩
  | holdRequest p h =>
    by_cases hqp : q = p
    · subst hqp; exact .inr (.hold s h)
    · exact .inl ⟨.inl rfl, rfl, by simp [hqp], rfl⟩

/-- Everything a step can do to slot q. -/
theorem step_slot (q : ButtonPin) {s t : State} (h : step s = .next t) :
    SlotFrame q s t ∨ ∃ s', Popped s s' ∧ SlotAction q s' t := by
  obtain ⟨s', hp, he⟩ := step_cases h
  have hs := slotFrame_popped q hp
  have hpin : s'.pinCfg = s.pinCfg := by obtain ⟨_, _, -, -, rfl⟩ := hp; rfl
  have trans : SlotFrame q s' t → SlotFrame q s t := fun ht =>
    ⟨hpin ▸ ht.pin, ht.slot.trans hs.slot, ht.stream.trans hs.stream, ht.params.trans hs.params⟩
  rcases he with rfl | ha | ⟨p, hv⟩
  · exact .inl hs
  · exact (action_slot q ha).imp trans fun ha => ⟨s', hp, ha⟩
  · by_cases hqp : q = p
    · subst hqp; exact .inr ⟨s', hp, .serve hv⟩
    · exact .inl (trans (slotFrame_service hqp hv))

/-! ## The monitor invariant -/

/-- An append within the bound keeps it, and only a finite queue overflows (R183). -/
theorem queueInv_appendState {cap : QueueCap} {i : Monitor} (v : Bool) (h : QueueInv cap i) :
    QueueInv cap (appendState cap v i) := by
  rcases appendState_cases cap v i with ⟨hf, he⟩ | ⟨hf, he⟩ <;> rw [he]
  · cases cap with
    | unbounded => cases hf
    | bounded n hn => exact h
  · cases cap with
    | unbounded => exact h
    | bounded n hn =>
      have hle : i.queue.length ≤ n := h
      have hne : i.queue.length ≠ n := by simpa [queueFull] using hf
      simp only [QueueInv, List.length_append, List.length_singleton]
      omega

theorem queueInv_tail {cap : QueueCap} {i : Monitor} {v : Bool} {rest : List Bool} (hq : i.queue = v :: rest)
    (h : QueueInv cap i) : QueueInv cap { i with queue := rest } := by
  cases cap with
  | unbounded => exact h
  | bounded n hn =>
    have hle : i.queue.length ≤ n := h
    rw [hq, List.length_cons] at hle
    exact Nat.le_of_succ_le hle

theorem instanceInv_newMonitor (params : Params) (t : Time) :
    InstanceInv params (newMonitor params.idleTimeoutMs t) := by
  refine ⟨rfl, ?_, fun _ => rfl⟩
  cases params.queueCap with
  | unbounded => rfl
  | bounded n hn => exact Nat.zero_le n

/-- A tick keeps the instance's invariant, whether it stays MONITORING or closes with no press recorded (R178). -/
theorem instanceInv_ticked {params : Params} {i : Monitor} (v : Bool) (st : MonitorStatus) (press : Time)
    (hst : st = .closed → press = 0) (h : InstanceInv params i) :
    InstanceInv params { appendState params.queueCap v i with st := st, lastPress := press } := by
  obtain ⟨hidle, hqueue, -⟩ := h
  refine ⟨by simpa using hidle, ?_, hst⟩
  have hq := queueInv_appendState v hqueue
  cases hc : params.queueCap <;> rw [hc] at hq <;> exact hq

theorem slotInv_of_frame {q : ButtonPin} {s t : State} (h : SlotFrame q s t) (hs : SlotInv s q) : SlotInv t q := by
  obtain ⟨hpin, hslot, hstream, hparams⟩ := h
  obtain ⟨hout, hin, hinst, hpend, hwait⟩ := hs
  rw [SlotInv, hslot, hstream, hparams]
  rcases hpin with hpin | hpin <;> rw [hpin]
  · exact ⟨hout, hin, hinst, hpend, hwait⟩
  · exact ⟨by decide, fun h => (by cases h), hinst, hpend, hwait⟩

/-- A change of slot q's instance alone. -/
theorem slotInv_setSlot {q : ButtonPin} {s t : State} {i j : Monitor} (hs : SlotInv s q)
    (hi : s.slots.get q = some i) (hslot : t.slots.get q = some j)
    (hpin : t.pinCfg.buttons.get q = s.pinCfg.buttons.get q) (hstream : t.streams.get q = s.streams.get q)
    (hparams : t.params = s.params) (hst : j.st = i.st) (hj : InstanceInv s.params i → InstanceInv s.params j) :
    SlotInv t q := by
  obtain ⟨hout, hin, hinst, hpend, hwait⟩ := hs
  rw [SlotInv, hslot, hstream, hparams, hpin]
  refine ⟨hout, fun h => ?_, fun j' hj' => ?_, fun _ => rfl, hwait⟩
  · obtain ⟨i', hi', hmon⟩ := hin h
    obtain rfl : i = i' := Option.some.inj (hi.symm.trans hi')
    exact ⟨j, rfl, hst.trans hmon⟩
  · obtain rfl : j = j' := Option.some.inj hj'
    exact hj (hinst i hi)

theorem slotInv_startMonitor {q : ButtonPin} {s : State} (hs : SlotInv s q) : SlotInv (startMonitor q s) q := by
  obtain ⟨-, -, -, -, hwait⟩ := hs
  refine ⟨by simp [startMonitor, configOfMode], fun _ => ⟨_, PerButton.get_set_same .., rfl⟩, fun i hi => ?_,
    fun _ => by simp [startMonitor], hwait⟩
  obtain rfl : newMonitor s.params.idleTimeoutMs s.nowMs = i := by simpa [startMonitor] using hi
  exact instanceInv_newMonitor s.params s.nowMs

theorem slotInv_closeMonitor {q : ButtonPin} {s : State} {i : Monitor} (hs : SlotInv s q)
    (hi : InstanceInv s.params { i with st := .closed, lastPress := 0 }) : SlotInv (closeMonitor q i s) q := by
  obtain ⟨-, -, -, -, hwait⟩ := hs
  refine ⟨by simp [closeMonitor], fun h => absurd h (by simp [closeMonitor]), fun j hj => ?_,
    fun _ => by simp [closeMonitor], hwait⟩
  obtain rfl : { i with st := .closed, lastPress := 0 } = j := by simpa [closeMonitor] using hj
  exact hi

theorem slotInv_tickInstance {q : ButtonPin} {s : State} {i : Monitor} (level : Bool) (hi : s.slots.get q = some i)
    (hst : i.st = .monitoring) (hs : SlotInv s q) : SlotInv (tickInstance q level i s) q := by
  have hn : i.st = .closed → ∀ t : Time, t = 0 := fun h => by rw [hst] at h; cases h
  obtain ⟨-, -, hinst, -, -⟩ := id hs
  rcases tickInstance_cases q level i s with ⟨-, h⟩ | ⟨-, -, h⟩ | ⟨-, -, h⟩ <;> rw [h]
  · exact slotInv_setSlot hs hi (PerButton.get_set_same ..) rfl rfl rfl (appendState_st ..)
      (fun hI => by simpa using instanceInv_ticked true i.st s.nowMs (fun h => hn h _) hI)
  · exact slotInv_setSlot hs hi (PerButton.get_set_same ..) rfl rfl rfl (appendState_st ..)
      (fun hI => by simpa using instanceInv_ticked false i.st 0 (fun _ => rfl) hI)
  · exact slotInv_closeMonitor (slotInv_of_frame ⟨.inl rfl, rfl, rfl, rfl⟩ hs)
      (instanceInv_ticked false .closed 0 (fun _ => rfl) (hinst i hi))

theorem slotInv_deliver {q : ButtonPin} {s : State} {i : Monitor} {v : Bool} {rest : List Bool}
    (hi : s.slots.get q = some i) (hq : i.queue = v :: rest) (hs : SlotInv s q) : SlotInv (deliver q i v rest s) q :=
  slotInv_setSlot hs hi (PerButton.get_set_same ..) rfl rfl rfl rfl
    fun ⟨hidle, hqueue, hpress⟩ => ⟨hidle, queueInv_tail hq hqueue, hpress⟩

/-- A request is left only at a slot with an instance or with a request before it (R42, R217). -/
theorem slotInv_holdRequest {q : ButtonPin} {s : State}
    (h : (s.streams.get q).pending = true ∨ (s.slots.get q).isSome = true) (hs : SlotInv s q) :
    SlotInv (holdRequest q s) q := by
  obtain ⟨hout, hin, hinst, hpend, -⟩ := hs
  have hheld : ∀ port, (portHeld port).pending = true := fun port => by unfold portHeld; split <;> rfl
  exact ⟨hout, hin, hinst, fun _ => h.elim hpend id, fun _ => by simp [hheld]⟩

theorem slotInv_takeRequest {q : ButtonPin} {s : State} (hp : (s.streams.get q).pending = true) (hs : SlotInv s q) :
    SlotInv (takeRequest q s) q := by
  obtain ⟨hout, hin, hinst, hpend, -⟩ := hs
  refine ⟨hout, hin, hinst, fun _ => hpend hp, fun h => ?_⟩
  simp only [takeRequest_streams, PerButton.get_set_same, portTaken, decide_eq_true_eq] at h ⊢
  omega

theorem slotInv_service {q : ButtonPin} {s t : State} (hs : SlotInv s q) (h : Service q s t) : SlotInv t q := by
  cases h with
  | answer code pending => exact slotInv_takeRequest pending (slotInv_of_frame ⟨.inl rfl, rfl, rfl, rfl⟩ hs)
  | deliver i v rest slot queue pending => exact slotInv_takeRequest pending (slotInv_deliver slot queue hs)

theorem slotInv_action {q : ButtonPin} {s t : State} (hs : SlotInv s q) (h : SlotAction q s t) : SlotInv t q := by
  cases h with
  | start => exact slotInv_startMonitor hs
  | tick level i slot st => exact slotInv_tickInstance level slot st hs
  | settle i slot => exact slotInv_setSlot hs slot (PerButton.get_set_same ..) rfl rfl rfl rfl id
  | deliver i v rest slot queue => exact slotInv_deliver slot queue hs
  | hold h => exact slotInv_holdRequest h hs
  | serve h => exact slotInv_service hs h

/-- Settles O50: for each slot, what leaves it alone keeps its invariant, and so does every action on it. -/
theorem stepKeepsMonitorInvariant : Obligations.StepKeepsMonitorInvariant := by
  intro s t hs h q
  rcases step_slot q h with hf | ⟨s', hp, ha⟩
  · exact slotInv_of_frame hf (hs q)
  · exact slotInv_action (slotInv_of_frame (slotFrame_popped q hp) (hs q)) ha

/-! ## What a step does to an instance -/

/-- What becomes of the instance i of slot p in one step from s. -/
inductive InstanceMove (s : State) (p : ButtonPin) (i : Monitor) : Monitor → Prop where
  | same : InstanceMove s p i i
  | ticked (v : Bool) (st : MonitorStatus) (press : Time) (monitoring : i.st = .monitoring) :
      InstanceMove s p i { appendState s.params.queueCap v i with st := st, lastPress := press }
  | settled : InstanceMove s p i { i with monitoring := true }
  | pulled (v : Bool) (rest : List Bool) (queue : i.queue = v :: rest) : InstanceMove s p i { i with queue := rest }
  | replaced (closed : s.pinCfg.get (.button p) = .closed) :
      InstanceMove s p i (newMonitor s.params.idleTimeoutMs s.nowMs)

theorem instanceMove_tickInstance {s : State} {p : ButtonPin} {i : Monitor} (level : Bool) (hst : i.st = .monitoring) :
    ∃ j, (tickInstance p level i s).slots.get p = some j ∧ InstanceMove s p i j := by
  have hkeep : ∀ v press, InstanceMove s p i { appendState s.params.queueCap v i with lastPress := press } := by
    intro v press
    simpa using InstanceMove.ticked (s := s) (p := p) v i.st press hst
  rcases tickInstance_cases p level i s with ⟨-, h⟩ | ⟨-, -, h⟩ | ⟨-, -, h⟩ <;> rw [h]
  · exact ⟨_, PerButton.get_set_same .., hkeep true s.nowMs⟩
  · exact ⟨_, PerButton.get_set_same .., hkeep false 0⟩
  · exact ⟨_, PerButton.get_set_same .., .ticked false .closed 0 hst⟩

theorem slotAction_instance {s t : State} {p : ButtonPin} {i : Monitor} (hi : s.slots.get p = some i)
    (h : SlotAction p s t) : ∃ j, t.slots.get p = some j ∧ InstanceMove s p i j := by
  have hinst : ∀ {i'}, s.slots.get p = some i' → i' = i := fun h => Option.some.inj (h.symm.trans hi)
  cases h with
  | start closed => exact ⟨_, PerButton.get_set_same .., .replaced closed⟩
  | tick level i' slot st => obtain rfl := hinst slot; exact instanceMove_tickInstance level st
  | settle i' slot => obtain rfl := hinst slot; exact ⟨_, PerButton.get_set_same .., .settled⟩
  | deliver i' v rest slot queue =>
    obtain rfl := hinst slot
    exact ⟨_, PerButton.get_set_same .., .pulled v rest queue⟩
  | hold => exact ⟨i, hi, .same⟩
  | serve h =>
    cases h with
    | answer => exact ⟨i, hi, .same⟩
    | deliver i' v rest slot queue =>
      obtain rfl := hinst slot
      exact ⟨_, PerButton.get_set_same .., .pulled v rest queue⟩

/-- A step never empties a slot, and moves its instance in one of five ways. -/
theorem step_instance {s t : State} {p : ButtonPin} {i : Monitor} (hi : s.slots.get p = some i)
    (h : step s = .next t) : ∃ j, t.slots.get p = some j ∧ InstanceMove s p i j := by
  rcases step_slot p h with hf | ⟨s', hp, ha⟩
  · exact ⟨i, hf.slot.trans hi, .same⟩
  · obtain ⟨j, hj, hm⟩ := slotAction_instance ((slotFrame_popped p hp).slot.trans hi) ha
    refine ⟨j, hj, ?_⟩
    obtain ⟨inputs, waiting, -, -, rfl⟩ := hp
    cases hm with
    | same => exact .same
    | ticked v st press hst => exact .ticked v st press hst
    | settled => exact .settled
    | pulled v rest queue => exact .pulled v rest queue
    | replaced closed => exact .replaced closed

theorem appendState_ovf {cap : QueueCap} {v : Bool} {i : Monitor} (h : i.ovf = true) :
    (appendState cap v i).ovf = true := by
  rcases appendState_cases cap v i with ⟨-, he⟩ | ⟨-, he⟩ <;> rw [he]
  exact h

/-- Settles O53: no move but the replacement reopens an instance or clears a flag; a tick needs it MONITORING. -/
theorem instancesOnlyMoveForward : Obligations.InstancesOnlyMoveForward := by
  intro s t p i hi h
  obtain ⟨j, hj, hm⟩ := step_instance hi h
  refine ⟨j, hj, ?_⟩
  cases hm with
  | same => exact .inl ⟨id, id, id, rfl, rfl⟩
  | ticked v st press hst =>
    refine .inl ⟨fun hc => ?_, appendState_ovf, fun hm => by simpa using hm, by simp, by simp⟩
    rw [hst] at hc
    cases hc
  | settled => exact .inl ⟨id, id, fun _ => rfl, rfl, rfl⟩
  | pulled => exact .inl ⟨id, id, id, rfl, rfl⟩
  | replaced closed => exact .inr ⟨closed, rfl⟩

/-- Settles O54: a tick appends or, at a full queue, leaves it; a record removes the head. -/
theorem queuesAreFirstInFirstOut : Obligations.QueuesAreFirstInFirstOut := by
  intro s t p i j hi h hj
  obtain ⟨j', hj', hm⟩ := step_instance hi h
  obtain rfl : j' = j := Option.some.inj (hj'.symm.trans hj)
  cases hm with
  | same | settled => exact .inl rfl
  | ticked v =>
    rcases appendState_cases s.params.queueCap v i with ⟨-, he⟩ | ⟨-, he⟩ <;> rw [he]
    · exact .inl rfl
    · exact .inr (.inl ⟨v, rfl⟩)
  | pulled v rest queue => exact .inr (.inr (.inl ⟨v, queue⟩))
  | replaced => exact .inr (.inr (.inr rfl))

end Sys2Proof.Proofs

/-! ## What a step does to the traces -/

namespace Sys2Proof.Proofs

open Sys2Proof.Machine Sys2Proof.Claims

theorem traceInv_of_eq {s t : State} (hg : t.gpio = s.gpio) (hd : t.dataQ = s.dataQ) (hc : t.clkQ = s.clkQ)
    (hs : TraceInv s) : TraceInv t := by
  unfold TraceInv
  rw [hg, hd, hc]
  exact hs

theorem traceInv_gpioOpen (p : Pin) (mode : GpioMode) (pull : Pull) {s : State} (hs : TraceInv s) :
    TraceInv (gpioOpen p mode pull s) := by
  unfold TraceInv at hs ⊢
  rw [gpioOpen_gpio, levelsFrom_append, hs]
  rfl

/-- A write leaves its level on its pin in the trace and in the register (R25). -/
theorem traceInv_gpioWrite (p : Pin) (level : Bool) {s : State} (hs : TraceInv s) :
    TraceInv (gpioWrite p level s) := by
  unfold TraceInv at hs ⊢
  rw [gpioWrite_gpio, levelsFrom_append, hs]
  cases p <;> rfl

theorem traceInv_gpioClose_button (q : ButtonPin) {s : State} (hs : TraceInv s) :
    TraceInv (gpioClose (.button q) s) := by
  unfold TraceInv at hs ⊢
  rw [gpioClose_gpio, levelsFrom_append, hs]
  rfl

/-- RELEASE closes both strip pins, and a closed pin has no level (R25, R111). -/
theorem traceInv_release (s : State) : TraceInv (release s) := by
  unfold TraceInv
  rw [release_gpio, release_dataQ, release_clkQ, levelsFrom_append]
  rfl

theorem traceInv_initStrip (e : Bri) {s : State} (hs : TraceInv s) : TraceInv (initStrip e s) :=
  traceInv_of_eq rfl rfl rfl (traceInv_gpioWrite .clock false (traceInv_gpioWrite .data false
    (traceInv_gpioOpen .clock .output .none (traceInv_gpioOpen .data .output .none hs))))

theorem traceInv_finish (i : Instr) (f : Bool) {s : State} (hs : TraceInv s) : TraceInv (finish i f s) := by
  cases f <;> exact traceInv_of_eq rfl rfl rfl hs

theorem traceInv_advanceRender (k : Fin renderWrites) (cont : Continuation) {s : State} (hs : TraceInv s) :
    TraceInv (advanceRender k cont s) := by
  rcases advanceRender_cases k cont s with ⟨_, h⟩ | ⟨_, h⟩ <;> rw [h]
  · exact traceInv_of_eq rfl rfl rfl hs
  · cases cont with
    | respondOk => exact traceInv_of_eq rfl rfl rfl hs
    | release => exact traceInv_release _

theorem traceInv_tickInstance (p : ButtonPin) (level : Bool) (i : Monitor) {s : State} (hs : TraceInv s) :
    TraceInv (tickInstance p level i s) := by
  rcases tickInstance_cases p level i s with ⟨-, h⟩ | ⟨-, -, h⟩ | ⟨-, -, h⟩ <;> rw [h]
  · exact traceInv_of_eq rfl rfl rfl hs
  · exact traceInv_of_eq rfl rfl rfl hs
  · exact traceInv_of_eq rfl rfl rfl (traceInv_gpioClose_button p hs)

theorem traceInv_popped {s t : State} (hs : TraceInv s) (h : Popped s t) : TraceInv t := by
  obtain ⟨inputs, waiting, -, -, rfl⟩ := h
  exact hs

theorem traceInv_service {p : ButtonPin} {s t : State} (hs : TraceInv s) (h : Service p s t) : TraceInv t := by
  cases h <;> exact traceInv_of_eq rfl rfl rfl hs

theorem traceInv_action {s t : State} (hs : TraceInv s) (h : Action s t) : TraceInv t := by
  cases h with
  | init e => exact traceInv_initStrip e hs
  | painted i f sel r g b e =>
    exact traceInv_finish i f (traceInv_of_eq (paint_gpio ..) (paint_dataQ ..) (paint_clkQ ..) hs)
  | teardown i =>
    exact traceInv_of_eq (by simp) (by simp) (by simp) hs
  | release => exact traceInv_release s
  | write k cont => exact traceInv_advanceRender k cont (traceInv_gpioWrite _ _ hs)
  | startMonitor p => exact traceInv_of_eq rfl rfl rfl (traceInv_gpioOpen (.button p) .input .up hs)
  | tick p level i => exact traceInv_tickInstance p level i hs
  | answer | hold | render | settle | clock | deliver | holdRequest => exact traceInv_of_eq rfl rfl rfl hs

/-- Settles O51: every write and close goes to the trace and the level register together. -/
theorem stepKeepsTraceLevels : Obligations.StepKeepsTraceLevels :=
  fun _ _ => step_keeps (fun _ _ => traceInv_popped) (fun _ _ _ => traceInv_service) fun _ _ => traceInv_action

/-- From s to t the traces only grow, at most one answer is given, and the parameters stay (R31, R32, R79). -/
structure Grows (s t : State) : Prop where
  gpio : s.gpio <+: t.gpio
  signals : s.signals <+: t.signals
  responses : t.responses = s.responses ∨ ∃ r, t.responses = s.responses ++ [r]
  params : t.params = s.params

theorem grows_finish (i : Instr) (f : Bool) (s : State) : Grows s (finish i f s) := by
  cases f <;> constructor <;> simp [finish]

theorem grows_advanceRender (k : Fin renderWrites) (cont : Continuation) (s : State) :
    Grows s (advanceRender k cont s) := by
  rcases advanceRender_cases k cont s with ⟨_, h⟩ | ⟨_, h⟩ <;> rw [h]
  · constructor <;> simp
  · cases cont <;> constructor <;> simp [continueWith]

theorem grows_tickInstance (p : ButtonPin) (level : Bool) (i : Monitor) (s : State) :
    Grows s (tickInstance p level i s) := by
  rcases tickInstance_cases p level i s with ⟨-, h⟩ | ⟨-, -, h⟩ | ⟨-, -, h⟩ <;> rw [h] <;> constructor <;>
    simp [closeMonitor]

theorem grows_popped {s t : State} (h : Popped s t) : Grows s t := by
  obtain ⟨inputs, waiting, -, -, rfl⟩ := h
  constructor <;> simp

theorem grows_service {p : ButtonPin} {s t : State} (h : Service p s t) : Grows s t := by
  cases h <;> constructor <;> simp [deliver]

theorem grows_action {s t : State} (h : Action s t) : Grows s t := by
  cases h with
  | painted i f sel r g b e =>
    obtain ⟨hg, hs, hr, hp⟩ := grows_finish i f (paint sel r g b e s)
    exact ⟨by simpa using hg, by simpa using hs, by simpa using hr, by simpa using hp⟩
  | write k cont =>
    obtain ⟨hg, hs, hr, hp⟩ := grows_advanceRender k cont
      (gpioWrite (renderWrite s.px k.val).1 (renderWrite s.px k.val).2 s)
    rw [gpioWrite_gpio] at hg
    exact ⟨(List.prefix_append ..).trans hg, by simpa using hs, by simpa using hr, by simpa using hp⟩
  | tick p level i => exact grows_tickInstance p level i s
  | init => constructor <;> simp [initStrip]
  | startMonitor => constructor <;> simp [startMonitor]
  | deliver => constructor <;> simp [Machine.deliver]
  | answer | hold | render | teardown | release | settle | clock | holdRequest => constructor <;> simp

/-- Settles O55: taking a turn or a held word leaves the traces, and what follows it only appends to them. -/
theorem tracesOnlyGrow : Obligations.TracesOnlyGrow := by
  intro s t h
  obtain ⟨s', hp, he⟩ := step_cases h
  have hs : Grows s' t → Grows s t := fun ⟨hg, hsig, hr, hpar⟩ => by
    obtain ⟨_, _, -, -, rfl⟩ := hp
    exact ⟨hg, hsig, hr, hpar⟩
  obtain ⟨hg, hsig, hr, hpar⟩ : Grows s t := by
    rcases he with rfl | ha | ⟨p, hv⟩
    · exact grows_popped hp
    · exact hs (grows_action ha)
    · exact hs (grows_service hv)
  exact ⟨hg, hsig, hr, hpar⟩

/-! ## What a step does to the clock -/

theorem onControl_nowMs {i : Instr} {perform : State → State} {s : State} (h : (perform s).nowMs = s.nowMs) :
    (onControl i perform s).nowMs = s.nowMs := by
  unfold onControl
  split
  · exact h
  · rfl

theorem finish_nowMs (i : Instr) (f : Bool) (s : State) : (finish i f s).nowMs = s.nowMs := by
  cases f <;> simp [finish]

theorem evalRequest_nowMs {p : ButtonPin} {s t : State} (h : evalRequest p s = some t) : t.nowMs = s.nowMs := by
  rcases evalRequest_cases p s with ⟨_, he⟩ | ⟨_, _, _, _, he⟩ | ⟨_, _, _, _, _, _, he⟩ | ⟨_, _, _, _, he⟩ <;>
    rw [he] at h <;> cases h <;> rfl

theorem streamRequest_nowMs (p : ButtonPin) (s : State) : (streamRequest p s).nowMs = s.nowMs := by
  unfold streamRequest
  split
  · rfl
  · cases he : evalRequest p s with
    | none => rfl
    | some t => exact evalRequest_nowMs he

theorem tickStep_nowMs (p : ButtonPin) (level : Bool) (s : State) : (tickStep p level s).nowMs = s.nowMs := by
  unfold tickStep
  split
  · rfl
  · rename_i i _
    split
    · rcases tickInstance_cases p level i s with ⟨-, h⟩ | ⟨-, -, h⟩ | ⟨-, -, h⟩ <;> rw [h] <;> rfl
    · rfl

theorem settleStep_nowMs (p : ButtonPin) (s : State) : (settleStep p s).nowMs = s.nowMs := by
  unfold settleStep
  split
  · rfl
  · split <;> rfl

/-- No instruction sets the clock. -/
theorem execState_nowMs (i : Instr) (s : State) : (execState i s).nowMs = s.nowMs := by
  cases i with
  | init => exact onControl_nowMs (by simp [initCommand, initStrip, apply_ite State.nowMs])
  | setPixel => exact onControl_nowMs (by simp [setPixelCommand, finish_nowMs, apply_ite State.nowMs])
  | setChannel => exact onControl_nowMs (by simp [setChannelCommand, finish_nowMs, apply_ite State.nowMs])
  | setAll => exact onControl_nowMs (by simp [setAllCommand, finish_nowMs, apply_ite State.nowMs])
  | clearAll => exact onControl_nowMs (by simp [clearAllCommand, finish_nowMs, apply_ite State.nowMs])
  | render => exact onControl_nowMs (by simp [renderCommand, apply_ite State.nowMs])
  | teardown => exact onControl_nowMs (by simp [teardownCommand, apply_ite State.nowMs])
  | getButtonSpecs => exact onControl_nowMs rfl
  | monitorButton a =>
    refine onControl_nowMs ?_
    unfold monitorButtonCommand
    split
    · rfl
    · split <;> rfl
  | nextRecord a =>
    simp only [execState, nextRecordCommand]
    split
    · exact onControl_nowMs rfl
    · exact streamRequest_nowMs ..
  | pollTick pin level =>
    simp only [execState, pollTickEvent]
    split
    · rfl
    · exact tickStep_nowMs ..

theorem exec_nowMs {i : Instr} {s t : State} (h : exec i s = .next t) : t.nowMs = s.nowMs := by
  rw [exec_eq] at h
  cases h
  exact execState_nowMs i s

theorem arriveWord_nowMs {w : CommandWord} {s t : State} (h : arriveWord w s = .next t) : t.nowMs = s.nowMs := by
  unfold arriveWord at h
  split at h
  · cases h
    unfold illegalWord
    split
    · rfl
    · split <;> rfl
  · unfold arriveCommand at h
    split at h
    · exact exec_nowMs h
    · split at h
      · exact exec_nowMs h
      · cases h; rfl

theorem advanceRender_nowMs (k : Fin renderWrites) (cont : Continuation) (s : State) :
    (advanceRender k cont s).nowMs = s.nowMs := by
  rcases advanceRender_cases k cont s with ⟨_, h⟩ | ⟨_, h⟩ <;> rw [h]
  cases cont <;> simp [continueWith]

theorem performWord_nowMs {w : HeldWord} {s t : State} (h : performWord w s = .next t) : t.nowMs = s.nowMs := by
  cases w with
  | command i => exact exec_nowMs h
  | illegal => cases h; rfl

theorem controlTurn_nowMs {s t : State} (h : controlTurn s = .next t) : t.nowMs = s.nowMs := by
  unfold controlTurn at h
  split at h
  · rename_i k cont _
    unfold renderStep at h
    split at h
    · cases h
    · cases h
      rw [advanceRender_nowMs, gpioWrite_nowMs]
  · split at h
    · cases h; rfl
    · rename_i w rest _
      split at h
      · have ht := performWord_nowMs h
        exact ht
      · cases h; rfl

theorem serveRequest_nowMs (p : ButtonPin) (s : State) : (serveRequest p s).nowMs = s.nowMs := by
  unfold serveRequest
  split
  · rfl
  · rename_i he
    rw [takeRequest_nowMs]
    exact evalRequest_nowMs he

theorem requestTurn_nowMs (p : ButtonPin) (s : State) : (requestTurn p s).nowMs = s.nowMs := by
  unfold requestTurn
  split
  · exact serveRequest_nowMs p s
  · rfl

/-- Only a clock turn sets the clock, and it changes nothing else (R39). -/
theorem takeInput_nowMs {x : Input} {s t : State} (h : takeInput x s = .next t) :
    t.nowMs = s.nowMs ∨ (x = .clock t.nowMs ∧ t = { s with nowMs := t.nowMs }) := by
  cases x with
  | command w => exact .inl (arriveWord_nowMs h)
  | event w =>
    simp only [takeInput, arriveEvent] at h
    split at h
    · cases h
    · exact .inl (exec_nowMs h)
  | settle p => cases h; exact .inl (settleStep_nowMs p s)
  | clock v => cases h; exact .inr ⟨rfl, rfl⟩
  | control => exact .inl (controlTurn_nowMs h)
  | request p => cases h; exact .inl (requestTurn_nowMs p s)

/-- A turn is taken only when no ready request comes before it. -/
theorem early_or_readySlot_of_dueSlot {s : State} {x : Input} {early : Bool} {rest : List Turn}
    (hd : dueSlot s = none) (hi : s.inputs = ⟨x, early⟩ :: rest) : early = true ∨ readySlot s = none := by
  cases early with
  | true => exact .inl rfl
  | false => exact .inr (by simpa [dueSlot, nextIsEarly, hi] using hd)

theorem step_nowMs {s t : State} (h : step s = .next t) :
    t.nowMs = s.nowMs ∨
      ∃ rest, TakesTurn s (.clock t.nowMs) rest ∧ t = { s with nowMs := t.nowMs, inputs := rest } := by
  unfold step scheduledStep at h
  split at h
  · rename_i p _
    cases h
    exact .inl (serveRequest_nowMs p s)
  · rename_i hd
    unfold takeTurn at h
    split at h
    · exact .inl (controlTurn_nowMs h)
    · rename_i x rest hi
      refine (takeInput_nowMs h).imp_right fun ⟨hx, ht⟩ => ⟨rest, ⟨x.early, ?_, ?_⟩, ht⟩
      · rw [hi, ← hx]
      · exact early_or_readySlot_of_dueSlot hd hi

/-- Settles O56: a clock turn that is taken sets NOW_MS, and no other turn does. -/
theorem clockIsTheEnvironments : Obligations.ClockIsTheEnvironments :=
  ⟨fun _ _ _ ⟨_, hi, he⟩ => step_takes hi he, fun _ _ => step_nowMs⟩

/-! ## The taken control port -/

/-- A command of the control port is held while the port takes none (R27). -/
theorem execState_held {i : Instr} {s : State} (hi : goesToControl i = true) (hf : portFree s = false) :
    execState i s = holdWord (.command i) s := by
  cases i with
  | pollTick => cases hi
  | nextRecord a =>
    have ha : ButtonPin.ofNumber? a = none := Option.isNone_iff_eq_none.mp hi
    simp only [execState, nextRecordCommand, ha]
    exact onControl_held hf
  | init | setPixel | setChannel | setAll | clearAll | render | teardown | getButtonSpecs | monitorButton =>
    exact onControl_held hf

/-- Settles O18: a render's BUSY takes the port, and every command of the control port is held at a taken one. -/
theorem busyPortHoldsCommands : Obligations.BusyPortHoldsCommands :=
  ⟨fun _ _ _ => portFree_of_busy, fun i s hi hf => by rw [exec_eq, execState_held hi hf, holdWord]⟩

end Sys2Proof.Proofs

/-! SUPPORT AND PROOFS of the statements about the shared state and the interleaving (spec/20_memory.md): a render
under every interleaving, the frame of a slot's own steps, and the words that arrive at the ports. -/

/-! ## What a step adds to the wire -/

namespace Sys2Proof.Proofs

open Sys2Proof.Machine Sys2Proof.Claims

/-- From s to t the GPIO trace grows by events that raise no clock: they carry no wire bit (R41). -/
def NoPulse (s t : State) : Prop := ∃ l, t.gpio = s.gpio ++ l ∧ .write .clock true ∉ l

theorem NoPulse.of_eq {s t : State} (h : t.gpio = s.gpio) : NoPulse s t := ⟨[], by simpa using h, by simp⟩

theorem NoPulse.of_append {s t : State} {l : List GpioEvent} (h : t.gpio = s.gpio ++ l)
    (hl : .write .clock true ∉ l) : NoPulse s t := ⟨l, h, hl⟩

theorem wireFrom_of_no_pulse (d c : Option Bool) {l : List GpioEvent} (h : .write .clock true ∉ l) :
    wireFrom d c l = some [] := by
  induction l generalizing d c with
  | nil => rfl
  | cons e l ih =>
    obtain ⟨he, hl⟩ := not_or.mp (mt List.mem_cons.mpr h)
    rcases e with ⟨p, mode, pull⟩ | ⟨p | p | p, level⟩ | ⟨p | p | p⟩
    case write.clock =>
      cases level with
      | false => exact ih _ _ hl
      | true => exact absurd rfl he
    all_goals exact ih _ _ hl

theorem wireBits_of_noPulse {s t : State} (h : NoPulse s t) : wireBits t.gpio = wireBits s.gpio := by
  obtain ⟨l, hg, hl⟩ := h
  rw [hg, wireBits, wireFrom_append, wireFrom_of_no_pulse _ _ hl]
  simp [wireBits]

/-- A clock pulse puts the level of the data line on the wire (R41). -/
theorem wireBits_gpioWrite_clock_true {s : State} {d : Bool} {bits : List Bool} (ht : TraceInv s)
    (hd : s.dataQ = some d) (hc : s.clkQ = some false) (hw : wireBits s.gpio = some bits) :
    wireBits (gpioWrite .clock true s).gpio = some (bits ++ [d]) := by
  unfold TraceInv at ht
  unfold wireBits at hw
  rw [gpioWrite_gpio, wireBits, wireFrom_append, hw, ht, hd, hc]
  simp [wireFrom]

/-! ## The bits of the frame -/

/-- The pixel frames of the buffer have 32 bits each (R83). -/
theorem pixelFrames_length (px : Vector Pixel pixelCount) : (px.toList.flatMap pixelFrame).length = 512 := by
  rw [length_flatMap_const pixelFrame 32 pixelFrame_length, Vector.length_toList]
  rfl

theorem frame_length (px : Vector Pixel pixelCount) : (frame px).length = 580 := by
  rw [frame, List.length_append, List.length_append, pixelFrames_length, List.length_replicate, List.length_replicate]
  rfl

/-- R144's arithmetic finds the bits of FRAME(px): the start frame, a pixel frame, or the end frame. -/
theorem frame_getElem? (px : Vector Pixel pixelCount) {j : Nat} (h : j < 580) :
    (frame px)[j]? = some (frameBit px j) := by
  have hstart : (List.replicate startFrameBits false).length = 32 := List.length_replicate ..
  have hpixels := pixelFrames_length px
  unfold frame frameBit
  obtain h32 | h32 := Nat.lt_or_ge j 32
  · rw [if_pos h32, List.append_assoc, List.getElem?_append_left (by omega), List.getElem?_replicate_of_lt h32]
  · rw [if_neg h32.not_gt]
    obtain h544 | h544 := Nat.lt_or_ge j 544
    · have hi : (j - 32) / 32 < px.toList.length := by rw [Vector.length_toList]; change _ < 16; omega
      have hmod : (j - 32) % 32 % 8 = (j - 32) % 8 := Nat.mod_mod_of_dvd _ (by decide)
      rw [dif_pos h544, List.getElem?_append_left (by rw [List.length_append]; omega),
        List.getElem?_append_right (by omega), hstart,
        getElem?_flatMap_const pixelFrame 32 (by decide) pixelFrame_length, List.getElem?_eq_getElem hi,
        Option.bind_some, pixelFrame_getElem? _ _ (Nat.mod_lt _ (by decide)), hmod, Vector.getElem_toList]
    · rw [dif_neg h544.not_gt, List.getElem?_append_right (by rw [List.length_append]; omega),
        List.length_append, List.getElem?_replicate_of_lt (by change _ < 36; omega)]

/-- The first j + 1 bits of the frame are the first j and the bit the render sequencer finds (R144). -/
theorem frame_take_succ (px : Vector Pixel pixelCount) {j : Nat} (h : j < 580) :
    (frame px).take (j + 1) = (frame px).take j ++ [frameBit px j] := by
  rw [List.take_add_one, frame_getElem? px h]
  rfl

/-! ## A render under every interleaving -/

/-- From s to t the sequencer makes its next write, the one R144 determines from the buffer. -/
def MakesWrite (s t : State) : Prop :=
  ∃ k cont, s.rs = .busy k cont ∧
    t = advanceRender k cont (gpioWrite (renderWrite s.px k.val).1 (renderWrite s.px k.val).2 s)

theorem MakesWrite.busy {s t : State} (h : MakesWrite s t) : s.rs ≠ .idle := by
  obtain ⟨k, cont, hrs, -⟩ := h
  rw [hrs]
  nofun

/-- From s to t no write of a render is made: no wire bit is added, and the strip stays as it is, unless no render
runs, when one may start. -/
structure Quiet (s t : State) : Prop where
  noPulse : NoPulse s t
  strip : SameStrip s t ∨ (s.rs = .idle ∧ (t.rs = .idle ∨ ∃ cont, t.rs = .busy 0 cont))

/-- The strip's actions but a write need an idle sequencer, and at most start a render (R27). -/
theorem stripAction_rs {s t : State} (h : StripAction s t) :
    (s.rs = .idle ∧ (t.rs = .idle ∨ ∃ cont, t.rs = .busy 0 cont)) ∨ MakesWrite s t := by
  cases h with
  | write k cont busy => exact .inr ⟨k, cont, busy, rfl⟩
  | init e free =>
    have hrs := (portFree_iff.mp free).1
    exact .inl ⟨hrs, .inl hrs⟩
  | painted i f sel r g b e free =>
    have hrs := (portFree_iff.mp free).1
    cases f with
    | false => exact .inl ⟨hrs, .inl (by simpa [finish] using hrs)⟩
    | true => exact .inl ⟨hrs, .inr ⟨.respondOk, rfl⟩⟩
  | render free => exact .inl ⟨(portFree_iff.mp free).1, .inr ⟨_, rfl⟩⟩
  | teardown i free => exact .inl ⟨(portFree_iff.mp free).1, .inr ⟨_, rfl⟩⟩
  | release free =>
    have hrs := (portFree_iff.mp free).1
    exact .inl ⟨hrs, .inl (by simpa using hrs)⟩

theorem noPulse_release (s : State) : NoPulse s (release s) := .of_append (release_gpio s) (by decide)

theorem noPulse_initStrip (e : Bri) (s : State) : NoPulse s (initStrip e s) :=
  .of_append (l := [.openPin .data .output .none, .openPin .clock .output .none, .write .data false,
    .write .clock false]) (by simp [initStrip]) (by decide)

theorem noPulse_finish_paint (i : Instr) (f : Bool) (sel : Fin pixelCount → Bool) (r g b : Byte) (e : Option Bri)
    (s : State) : NoPulse s (finish i f (paint sel r g b e s)) := by
  cases f <;> exact .of_eq (by simp [finish])

theorem noPulse_tickInstance (p : ButtonPin) (level : Bool) (i : Monitor) (s : State) :
    NoPulse s (tickInstance p level i s) := by
  rcases tickInstance_cases p level i s with ⟨-, h⟩ | ⟨-, -, h⟩ | ⟨-, -, h⟩ <;> rw [h]
  · exact .of_eq rfl
  · exact .of_eq rfl
  · exact .of_append (l := [.close (.button p)]) rfl (by simp)

/-- Only a write of a render raises the clock: INIT and TEARDOWN drive it low or close it (R105, R111). -/
theorem action_noPulse {s t : State} (h : Action s t) : NoPulse s t ∨ MakesWrite s t := by
  cases h with
  | write k cont busy => exact .inr ⟨k, cont, busy, rfl⟩
  | init e => exact .inl (noPulse_initStrip e s)
  | painted i f sel r g b e => exact .inl (noPulse_finish_paint i f sel r g b e s)
  | teardown => exact .inl (.of_eq (by simp))
  | release => exact .inl (noPulse_release s)
  | startMonitor p => exact .inl (.of_append (l := [.openPin (.button p) .input .up]) rfl (by simp))
  | tick p level i => exact .inl (noPulse_tickInstance p level i s)
  | answer | hold | render | settle | clock | deliver | holdRequest => exact .inl (.of_eq rfl)

theorem quiet_or_makesWrite_of_action {s t : State} (h : Action s t) : Quiet s t ∨ MakesWrite s t := by
  rcases action_noPulse h with hp | hw
  · rcases action_strip h with hs | hs
    · exact .inl ⟨hp, .inl hs⟩
    · exact (stripAction_rs hs).imp_left fun hs => ⟨hp, .inr hs⟩
  · exact .inr hw

theorem quiet_service {p : ButtonPin} {s t : State} (h : Service p s t) : Quiet s t :=
  ⟨by cases h <;> exact .of_eq rfl, .inl (sameStrip_service h)⟩

theorem sameStrip_trans {s t u : State} (h : SameStrip s t) (h' : SameStrip t u) : SameStrip s u :=
  ⟨h'.px.trans h.px, h'.lc.trans h.lc, h'.dataPin.trans h.dataPin, h'.clockPin.trans h.clockPin,
    h'.dataQ.trans h.dataQ, h'.clkQ.trans h.clkQ, h'.rs.trans h.rs, h'.inProgress.trans h.inProgress⟩

/-- Everything a step can do to a render: it makes the next write, after a turn and a held word are taken, or it
leaves the render alone. -/
theorem step_quiet_or_makesWrite {s t : State} (h : step s = .next t) :
    Quiet s t ∨ ∃ s', Popped s s' ∧ MakesWrite s' t := by
  obtain ⟨s', hp, he⟩ := step_cases h
  have hs := sameStrip_popped hp
  have hg : s'.gpio = s.gpio := by obtain ⟨_, _, -, -, rfl⟩ := hp; rfl
  have pre : Quiet s' t → Quiet s t := fun ⟨⟨l, hl, hn⟩, ht⟩ =>
    ⟨⟨l, by rw [hl, hg], hn⟩, ht.imp (sameStrip_trans hs) fun ⟨hi, hrs⟩ => ⟨hs.rs ▸ hi, hrs⟩⟩
  rcases he with rfl | ha | ⟨p, hv⟩
  · exact .inl ⟨.of_eq hg, .inl hs⟩
  · exact (quiet_or_makesWrite_of_action ha).imp pre fun hw => ⟨s', hp, hw⟩
  · exact .inl (pre (quiet_service hv))

/-- What a render has put on the wire before write k of it. -/
theorem wireSoFar_busy_iff {before : List Bool} {s : State} {k : Fin renderWrites} {cont : Continuation}
    (h : s.rs = .busy k cont) :
    WireSoFar before s ↔ wireBits s.gpio = some (before ++ (frame s.px).take ((k.val + 1) / 3)) := by
  simp only [WireSoFar, h]

theorem wireSoFar_idle_iff {before : List Bool} {s : State} (h : s.rs = .idle) :
    WireSoFar before s ↔ wireBits s.gpio = some before := by
  simp only [WireSoFar, h]

/-- A render that starts has sent nothing (R144). -/
theorem wireSoFar_quiet {before : List Bool} {s t : State} (h : Quiet s t) (hs : WireSoFar before s) :
    WireSoFar before t := by
  have hw := wireBits_of_noPulse h.noPulse
  rcases h.strip with hst | ⟨hi, ht | ⟨cont, ht⟩⟩
  · simp only [WireSoFar, hst.rs, hst.px, hw]
    exact hs
  · rw [wireSoFar_idle_iff ht, hw]
    exact (wireSoFar_idle_iff hi).mp hs
  · rw [wireSoFar_busy_iff ht, hw]
    simpa using (wireSoFar_idle_iff hi).mp hs

/-- Write k of a render adds the bit that its triple of writes sends, when it raises the clock (R144, R145, R147). -/
theorem wireBits_renderWrite {before : List Bool} {s : State} {k : Fin renderWrites} {cont : Continuation}
    (hrs : s.rs = .busy k cont) (hs : StripInv s) (ht : TraceInv s) (hw : WireSoFar before s) :
    wireBits (gpioWrite (renderWrite s.px k.val).1 (renderWrite s.px k.val).2 s).gpio =
      some (before ++ (frame s.px).take ((k.val + 2) / 3)) := by
  rw [wireSoFar_busy_iff hrs] at hw
  obtain ⟨-, -, -, -, hd, hc⟩ := (stripInv_busy_iff hrs).mp hs
  have hk : k.val < 1740 := k.isLt
  obtain h | h | h : k.val % 3 = 0 ∨ k.val % 3 = 1 ∨ k.val % 3 = 2 := by omega
  · have hj : (k.val + 2) / 3 = (k.val + 1) / 3 := by omega
    have hn : NoPulse s (gpioWrite .data (frameBit s.px (k.val / 3)) s) := .of_append (gpioWrite_gpio ..) (by simp)
    simpa [renderWrite, h, hj, hw] using wireBits_of_noPulse hn
  · have hj : (k.val + 1) / 3 = k.val / 3 := by omega
    have hj' : (k.val + 2) / 3 = k.val / 3 + 1 := by omega
    have hlt : k.val / 3 < 580 := by omega
    rw [lastDataBit_of_mod_ne_zero _ (by omega)] at hd
    have hp := wireBits_gpioWrite_clock_true ht hd (by simpa [h] using hc) hw
    simpa [renderWrite, h, hj, hj', frame_take_succ _ hlt] using hp
  · have hj : (k.val + 2) / 3 = (k.val + 1) / 3 := by omega
    have hn : NoPulse s (gpioWrite .clock false s) := .of_append (gpioWrite_gpio ..) (by decide)
    simpa [renderWrite, h, hj, hw] using wireBits_of_noPulse hn

theorem noPulse_continueWith (cont : Continuation) (s : State) : NoPulse s (continueWith cont s) := by
  cases cont with
  | respondOk => exact .of_eq rfl
  | release => exact noPulse_release s

theorem continueWith_rs (cont : Continuation) (s : State) : (continueWith cont s).rs = s.rs := by
  cases cont <;> simp [continueWith]

/-- The sequencer's write keeps the stream, and after write 1739 the whole frame is on the wire (R144, R147). -/
theorem wireSoFar_makesWrite {before : List Bool} {s t : State} (h : MakesWrite s t) (hs : StripInv s)
    (ht : TraceInv s) (hw : WireSoFar before s) :
    (t.rs ≠ .idle ∧ WireSoFar before t) ∨ (t.rs = .idle ∧ wireBits t.gpio = some (before ++ frame s.px)) := by
  obtain ⟨k, cont, hrs, rfl⟩ := h
  have hbits := wireBits_renderWrite hrs hs ht hw
  rcases advanceRender_cases k cont (gpioWrite (renderWrite s.px k.val).1 (renderWrite s.px k.val).2 s) with
    ⟨_, he⟩ | ⟨hlast, he⟩ <;> rw [he]
  · exact .inl ⟨by simp, (wireSoFar_busy_iff rfl).mpr (by simpa using hbits)⟩
  · refine .inr ⟨continueWith_rs .., ?_⟩
    rw [wireBits_of_noPulse (noPulse_continueWith cont _)]
    simpa [hlast, List.take_of_length_le, frame_length] using hbits

/-- Settles O25: only the sequencer's writes raise the clock, and each pulse puts the frame's next bit on the wire. -/
theorem interleavedRenderStreamsTheFrame : Obligations.InterleavedRenderStreamsTheFrame := by
  intro before s t hs ht hw h
  rcases step_quiet_or_makesWrite h with hq | ⟨s', hp, hm⟩
  · refine ⟨fun _ => wireSoFar_quiet hq hw, fun hbusy hidle => absurd ?_ hbusy⟩
    rcases hq.strip with hst | ⟨hi, -⟩
    · exact hst.rs ▸ hidle
    · exact hi
  · have hst := sameStrip_popped hp
    have hw' : WireSoFar before s' := by obtain ⟨_, _, -, -, rfl⟩ := hp; exact hw
    rcases wireSoFar_makesWrite hm (stripInv_of_sameStrip hst hs) (traceInv_popped ht hp) hw' with
      ⟨hbusy, hwt⟩ | ⟨hidle, hwt⟩
    · exact ⟨fun _ => hwt, fun _ hidle => absurd hidle hbusy⟩
    · refine ⟨fun hor => ?_, fun _ _ => hst.px ▸ hwt⟩
      rcases hor with hbusy | hi
      · exact absurd hidle hbusy
      · exact absurd (hst.rs.trans hi) hm.busy

/-- Settles O26: with the sequencer BUSY no step but its own write touches the strip. -/
theorem busyRenderFreezesTheBuffer : Obligations.BusyRenderFreezesTheBuffer := by
  intro s t k c hrs h
  rcases step_quiet_or_makesWrite h with hq | ⟨s', hp, k', cont, hrs', rfl⟩
  · rcases hq.strip with hst | ⟨hi, -⟩
    · exact ⟨hst.px, .inl ⟨hst.rs.trans hrs, hst.dataQ, hst.clkQ⟩⟩
    · rw [hrs] at hi
      cases hi
  · have hst := sameStrip_popped hp
    have hg : s'.gpio = s.gpio := by obtain ⟨_, _, -, -, rfl⟩ := hp; rfl
    obtain ⟨rfl, rfl⟩ : k = k' ∧ c = cont := by simpa [hst.rs, hrs] using hrs'
    refine ⟨by rw [advanceRender_px, gpioWrite_px, hst.px], .inr ?_⟩
    rcases advanceRender_cases k c (gpioWrite (renderWrite s'.px k.val).1 (renderWrite s'.px k.val).2 s') with
      ⟨hlt, he⟩ | ⟨hlast, he⟩ <;> rw [he]
    · exact .inl ⟨⟨k.val + 1, hlt⟩, rfl, rfl, by simp [hg, hst.px]⟩
    · exact .inr ⟨hlast, continueWith_rs ..⟩

end Sys2Proof.Proofs

/-! ## The frame of a slot's own steps -/

namespace Sys2Proof.Proofs

open Sys2Proof.Machine Sys2Proof.Claims

/-- From s to t at most slot p, its stream port, its pin, the traces and the responses change. -/
structure OnlySlot (p : ButtonPin) (s t : State) : Prop where
  strip : SameStrip s t
  control : t.control = s.control
  nowMs : t.nowMs = s.nowMs
  inputs : t.inputs = s.inputs
  params : t.params = s.params
  slots : ∀ q, q ≠ p → t.slots.get q = s.slots.get q
  streams : ∀ q, q ≠ p → t.streams.get q = s.streams.get q
  pins : ∀ q, q ≠ p → t.pinCfg.get (.button q) = s.pinCfg.get (.button q)

theorem OnlySlot.refl (p : ButtonPin) (s : State) : OnlySlot p s s :=
  ⟨sameStrip_popped (.refl s), rfl, rfl, rfl, rfl, fun _ _ => rfl, fun _ _ => rfl, fun _ _ => rfl⟩

theorem OnlySlot.trans {p : ButtonPin} {s t u : State} (h : OnlySlot p s t) (h' : OnlySlot p t u) : OnlySlot p s u :=
  ⟨sameStrip_trans h.strip h'.strip, h'.control.trans h.control, h'.nowMs.trans h.nowMs, h'.inputs.trans h.inputs,
    h'.params.trans h.params, fun q hq => (h'.slots q hq).trans (h.slots q hq),
    fun q hq => (h'.streams q hq).trans (h.streams q hq), fun q hq => (h'.pins q hq).trans (h.pins q hq)⟩

theorem onlySlot_respond (p : ButtonPin) (port : PortId) (code : Code) (payload : Payload) (s : State) :
    OnlySlot p s (respond port code payload s) :=
  ⟨sameStrip_respond .., rfl, rfl, rfl, rfl, fun _ _ => rfl, fun _ _ => rfl, fun _ _ => rfl⟩

theorem onlySlot_emit (p : ButtonPin) (sig : Signal) (s : State) : OnlySlot p s (emit sig s) :=
  ⟨by constructor <;> rfl, rfl, rfl, rfl, rfl, fun _ _ => rfl, fun _ _ => rfl, fun _ _ => rfl⟩

theorem onlySlot_setSlot (p : ButtonPin) (i : Monitor) (s : State) : OnlySlot p s (setSlot p i s) :=
  ⟨by constructor <;> rfl, rfl, rfl, rfl, rfl, fun _ hq => by simp [hq], fun _ _ => rfl, fun _ _ => rfl⟩

theorem onlySlot_gpioClose (p : ButtonPin) (s : State) : OnlySlot p s (gpioClose (.button p) s) :=
  ⟨by constructor <;> rfl, rfl, rfl, rfl, rfl, fun _ _ => rfl, fun _ _ => rfl, fun _ hq => by simp [hq]⟩

theorem onlySlot_holdRequest (p : ButtonPin) (s : State) : OnlySlot p s (holdRequest p s) :=
  ⟨by constructor <;> rfl, rfl, rfl, rfl, rfl, fun _ _ => rfl, fun _ hq => by simp [hq], fun _ _ => rfl⟩

/-- An evaluated NEXT_RECORD answers, takes its record from slot p's queue, or is held at slot p's port (R179). -/
theorem onlySlot_streamRequest (p : ButtonPin) (s : State) : OnlySlot p s (streamRequest p s) := by
  unfold streamRequest
  split
  · exact onlySlot_holdRequest p s
  · rcases evalRequest_cases p s with ⟨_, he⟩ | ⟨_, _, _, _, he⟩ | ⟨i, v, rest, _, _, _, he⟩ | ⟨_, _, _, _, he⟩ <;>
      rw [he]
    · exact onlySlot_respond ..
    · exact onlySlot_respond ..
    · exact (onlySlot_setSlot ..).trans (onlySlot_respond ..)
    · exact onlySlot_holdRequest p s

/-- A tick writes slot p, and closes p's pin when the instance closes (R174 to R178). -/
theorem onlySlot_tickInstance (p : ButtonPin) (level : Bool) (i : Monitor) (s : State) :
    OnlySlot p s (tickInstance p level i s) := by
  rcases tickInstance_cases p level i s with ⟨-, h⟩ | ⟨-, -, h⟩ | ⟨-, -, h⟩ <;> rw [h]
  · exact (onlySlot_emit ..).trans (onlySlot_setSlot ..)
  · exact (onlySlot_emit ..).trans (onlySlot_setSlot ..)
  · exact (onlySlot_emit ..).trans ((onlySlot_setSlot ..).trans ((onlySlot_gpioClose ..).trans (onlySlot_emit ..)))

theorem onlySlot_tickStep (p : ButtonPin) (level : Bool) (s : State) : OnlySlot p s (tickStep p level s) := by
  unfold tickStep
  split
  · exact .refl p s
  · split
    · exact onlySlot_tickInstance ..
    · exact .refl p s

/-- A NEXT_RECORD that names slot p is a request at p's stream port (R78). -/
theorem execState_nextRecord_number (p : ButtonPin) (s : State) :
    execState (.nextRecord p.number) s = streamRequest p s := by
  simp [execState, nextRecordCommand]

theorem execState_pollTick_number (p : ButtonPin) (level : Bool) (s : State) :
    execState (.pollTick p.number level) s = tickStep p level s := by
  simp [execState, pollTickEvent]

/-- Settles O58: a request at p's port and a tick on p change slot p, its port and its pin only. -/
theorem slotStepsLeaveTheRest : Obligations.SlotStepsLeaveTheRest := by
  intro p i s t hi h
  rw [exec_eq] at h
  cases h
  have frame : OnlySlot p s (execState i s) := by
    rcases hi with rfl | ⟨level, rfl⟩
    · rw [execState_nextRecord_number]
      exact onlySlot_streamRequest p s
    · rw [execState_pollTick_number]
      exact onlySlot_tickStep p level s
  obtain ⟨strip, control, nowMs, inputs, params, slots, streams, pins⟩ := frame
  exact ⟨strip.px, strip.lc, strip.rs, strip.dataQ, strip.clkQ, control, strip.dataPin, strip.clockPin, nowMs, inputs,
    params, fun q hq => ⟨slots q hq, streams q hq, pins q hq⟩⟩

end Sys2Proof.Proofs

/-! ## The words that arrive -/

namespace Sys2Proof.Proofs

open Sys2Proof.Machine Sys2Proof.Claims

theorem portOfWord_eq_stream_iff {w : CommandWord} {p : ButtonPin} : portOfWord w = .stream p ↔ NamesSlot w p := by
  unfold portOfWord NamesSlot
  rw [← ButtonPin.ofNumber?_eq_some_iff]
  split
  · rename_i hop
    cases ButtonPin.ofNumber? (fieldA w) <;> simp [hop]
  · rename_i hop
    exact iff_of_false nofun fun h => hop h.1

theorem portOfWord_eq_control_iff {w : CommandWord} : portOfWord w = .control ↔ ∀ p, ¬ NamesSlot w p := by
  simp only [← portOfWord_eq_stream_iff]
  cases portOfWord w <;> simp

theorem routing : Routing := fun _ => ⟨fun _ => portOfWord_eq_stream_iff, portOfWord_eq_control_iff⟩

theorem step_takesTurn {s : State} {x : Input} {rest : List Turn} (h : TakesTurn s x rest) :
    step s = takeInput x { s with inputs := rest } := by
  obtain ⟨_, hi, he⟩ := h
  exact step_takes hi he

/-- The sequencer's turn, in both its forms, is one step of the sequencer (log 9). -/
theorem step_sequencerTurn {s : State} {rest : List Turn} (h : SequencerTurn s rest) :
    step s = controlTurn { s with inputs := rest } := by
  rcases h with h | ⟨hi, rfl, hr⟩
  · exact step_takesTurn h
  · rw [step_idle hi hr, ← hi]

theorem arriveWord_of_decode {w : CommandWord} {i : Instr} (h : decode (.command w) = .ok i) (s : State) :
    arriveWord w s = arriveCommand (portOfWord w) i s := by
  simp only [decode] at h
  simp only [arriveWord, h]

theorem arriveEvent_of_decode {w : EventWord} {i : Instr} (h : decode (.event w) = .ok i) (s : State) :
    arriveEvent w s = exec i s := by
  simp only [decode] at h
  simp only [arriveEvent, h]

/-- Behind held words a command of the control port waits (R62). -/
theorem arriveCommand_control (i : Instr) (s : State) :
    arriveCommand .control i s = if s.control.waiting = [] then exec i s else .next (holdWord (.command i) s) := by
  simp [arriveCommand]

/-- On a free port the sequencer performs the oldest held word (R27, R62). -/
theorem controlTurn_performs {s : State} {w : HeldWord} {held : List HeldWord} (hf : portFree s = true)
    (hw : s.control.waiting = w :: held) :
    controlTurn s = performWord w { s with control := { s.control with waiting := held } } := by
  simp [controlTurn, (portFree_iff.mp hf).1, hw, hf]

/-- Settles O44: a stream port runs its word at once, and so does a control port with nothing waiting. -/
theorem stepRunsTheArrivedCommand : Obligations.StepRunsTheArrivedCommand := by
  refine ⟨routing, fun s w rest i hturn hdec => ?_⟩
  have hstep : step s = arriveCommand (portOfWord w) i { s with inputs := rest } := by
    rw [step_takesTurn hturn]
    exact arriveWord_of_decode hdec _
  rw [hstep]
  constructor
  · intro p hp
    rw [portOfWord_eq_stream_iff.mpr hp]
    rfl
  · intro hn hw
    rw [portOfWord_eq_control_iff.mpr hn, arriveCommand_control, if_pos hw]

/-- Settles O45: a delivered tick goes to exec. -/
theorem stepDeliversTheTick : Obligations.StepDeliversTheTick := fun s w rest i hturn hdec => by
  rw [step_takesTurn hturn]
  exact arriveEvent_of_decode hdec _

/-- Settles O46: a new word goes to the end of the held words, and the sequencer takes the one at their head. -/
theorem heldWordsKeepTheirOrder : Obligations.HeldWordsKeepTheirOrder := by
  constructor
  · intro s w rest i hturn hdec hn hw
    rw [step_takesTurn hturn, takeInput, arriveWord_of_decode hdec, portOfWord_eq_control_iff.mpr hn,
      arriveCommand_control, if_neg hw]
    rfl
  · intro s i held rest hturn hf hw
    rw [step_sequencerTurn hturn]
    exact controlTurn_performs (s := { s with inputs := rest }) hf hw

end Sys2Proof.Proofs

/-! SUPPORT AND PROOFS of the statements about the encodings (spec/30_encoding.md): the decoder and the encoder, the
words that are refused, the port of a NEXT_RECORD, and the assembler. -/

/-! ## The decoder -/

namespace Sys2Proof.Proofs

open Sys2Proof.Machine Sys2Proof.Claims

/-- A word with a reserved encoding: OP is 0xA to 0xF, or RSV is not zero (R76). -/
def Reserved (w : CommandWord) : Prop := 0xA ≤ (fieldOp w).toNat ∨ fieldRsv w ≠ 0

theorem decodeCommand_of_rsv {w : CommandWord} (h : fieldRsv w = 0) : decodeCommand w = decodeOpcode w := if_pos h

theorem decodeCommand_reservedBits {w : CommandWord} (h : fieldRsv w ≠ 0) :
    decodeCommand w = .error .reservedBits := if_neg h

theorem decodeOpcode_error_iff {w : CommandWord} :
    (∃ e, decodeOpcode w = .error e) ↔ 0xA ≤ (fieldOp w).toNat := by
  unfold decodeOpcode
  split
  case h_11 =>
    simp only [imp_false] at *
    exact iff_of_true ⟨_, rfl⟩ (by omega)
  all_goals simp [*]

theorem decodeCommand_error_iff {w : CommandWord} : (∃ e, decodeCommand w = .error e) ↔ Reserved w := by
  by_cases h : fieldRsv w = 0
  · simp [decodeCommand_of_rsv h, decodeOpcode_error_iff, Reserved, h]
  · exact iff_of_true ⟨_, decodeCommand_reservedBits h⟩ (.inr h)

theorem wellFormed_of_decodeOpcode {w : CommandWord} {i : Instr} (h : decodeOpcode w = .ok i) :
    i.wellFormed = true := by
  unfold decodeOpcode at h
  split at h <;> cases h
  case h_2 | h_3 | h_9 | h_10 => exact argFits_fieldA w
  all_goals rfl

theorem wellFormed_of_decodeCommand {w : CommandWord} {i : Instr} (h : decodeCommand w = .ok i) :
    i.wellFormed = true := by
  by_cases hr : fieldRsv w = 0
  · exact wellFormed_of_decodeOpcode (decodeCommand_of_rsv hr ▸ h)
  · cases decodeCommand_reservedBits hr ▸ h

/-- The decoder of event words, by arithmetic on the word's number (R81). -/
theorem decodeEvent_of_lt {w : EventWord} (h : w.toNat < 512) :
    decodeEvent w = .ok (.pollTick (w.toNat % 256) (decide (256 ≤ w.toNat))) := by
  rw [decodeEvent, if_pos ((event_reserved_iff w).mpr h), event_pin, event_level w h]

theorem decodeEvent_of_ge {w : EventWord} (h : 512 ≤ w.toNat) : decodeEvent w = .error .malformedEvent :=
  if_neg fun hz => absurd ((event_reserved_iff w).mp hz) (Nat.not_lt.mpr h)

theorem wellFormed_of_decodeEvent {w : EventWord} {i : Instr} (h : decodeEvent w = .ok i) : i.wellFormed = true := by
  rcases Nat.lt_or_ge w.toNat 512 with hlt | hge
  · cases (decodeEvent_of_lt hlt).symm.trans h
    exact decide_eq_true (Nat.mod_lt _ (by decide))
  · cases (decodeEvent_of_ge hge).symm.trans h

/-- A command word put together from its fields is decoded by its opcode alone: RSV is zero in it. -/
theorem decodeCommand_commandWord (op : BitVec 4) (f : Bool) (bri : Option Binary64) (r g b : Byte) (a : Int) :
    decodeCommand (commandWord op f bri r g b a) = decodeOpcode (commandWord op f bri r g b a) :=
  decodeCommand_of_rsv (commandWord_rsv ..)

theorem decode_encode_pollTick {pin : Nat} (level : Bool) (h : pinFits pin = true) :
    decode (encode (.pollTick pin level)) = .ok (.pollTick pin level) := by
  have hpin : pin < 256 := of_decide_eq_true h
  simp only [encode, decode, decodeEvent, eventWord_reserved, eventWord_pin, eventWord_level, if_true,
    BitVec.toNat_ofNat]
  rw [Nat.mod_eq_of_lt hpin]

/-- Settles O1: RSV is zero, OP names the row, and every field the row reads holds its operand. -/
theorem decodeOfEncodeIsIdentity : Obligations.DecodeOfEncodeIsIdentity := by
  intro i hwf
  cases i with
  | pollTick pin level => exact decode_encode_pollTick level hwf
  | setPixel a | setChannel a | monitorButton a | nextRecord a =>
    have ha : (BitVec.ofInt 32 a).toInt = a := toInt_ofInt_of_argFits hwf
    simp [encode, decode, decodeCommand_commandWord, decodeOpcode, ha]
  | init | setAll | clearAll | render | teardown | getButtonSpecs =>
    simp [encode, decode, decodeCommand_commandWord, decodeOpcode]

/-- Settles O2: field A is of 32 bits, and PIN a remainder by 256. -/
theorem decodedInstructionIsWellFormed : Obligations.DecodedInstructionIsWellFormed := by
  intro w i h
  cases w with
  | command w => exact wellFormed_of_decodeCommand h
  | event w => exact wellFormed_of_decodeEvent h

/-- Settles O5: at each opcode the two words give the same fields to the same command. -/
theorem unreadFieldsAreIgnored : Obligations.UnreadFieldsAreIgnored := by
  intro v w hv hw hop hbri hrgb hf ha
  rw [decodeCommand_of_rsv hv, decodeCommand_of_rsv hw]
  unfold decodeOpcode
  rw [← hop]
  split
  case h_1 hk => simp [hbri, hk]
  case h_2 hk | h_3 hk => simp [hbri, hrgb, hf, ha, hk]
  case h_4 hk => simp [hbri, hrgb, hf, hk]
  case h_5 hk | h_7 hk => simp [hf, hk]
  case h_9 hk | h_10 hk => simp [ha, hk]
  case h_6 | h_8 | h_11 => rfl

/-- Settles O6: the decoder evaluates each word. -/
theorem specWordsDecode : Obligations.SpecWordsDecode := by
  unfold Obligations.SpecWordsDecode
  decide

/-- Settles O7: bits 15:9 are zero exactly below 512, and a delivered word is decoded first. -/
theorem eventWordFields : Obligations.EventWordFields := by
  refine fun w => ⟨decodeEvent_of_lt, fun h => ⟨decodeEvent_of_ge h, fun s rest hturn => ?_⟩⟩
  rw [step_takesTurn hturn, takeInput, arriveEvent, decodeEvent_of_ge h]

end Sys2Proof.Proofs

/-! ## The reserved words -/

namespace Sys2Proof.Proofs

open Sys2Proof.Machine Sys2Proof.Claims

theorem arriveWord_reserved {w : CommandWord} (h : Reserved w) (s : State) :
    arriveWord w s = .next (illegalWord (portOfWord w) s) := by
  obtain ⟨e, he⟩ := decodeCommand_error_iff.mpr h
  rw [arriveWord, he]

theorem step_reserved {s : State} {w : CommandWord} {rest : List Turn} (hturn : TakesTurn s (.command w) rest)
    (h : Reserved w) : step s = .next (illegalWord (portOfWord w) { s with inputs := rest }) := by
  rw [step_takesTurn hturn]
  exact arriveWord_reserved h _

/-- The step that takes a reserved word naming a slot: the stream port answers at once, pending or not (log 13). -/
theorem step_reserved_stream {s : State} {w : CommandWord} {rest : List Turn} {p : ButtonPin}
    (hturn : TakesTurn s (.command w) rest) (h : Reserved w) (hp : NamesSlot w p) :
    step s = .next (answered (.stream p) .illegalCommand .none { s with inputs := rest }) := by
  rw [step_reserved hturn h, portOfWord_eq_stream_iff.mpr hp]
  rfl

/-- The step that takes a reserved word naming no slot: the control port answers it where it is open, and holds it
otherwise (R27, R62). -/
theorem step_reserved_control {s : State} {w : CommandWord} {rest : List Turn}
    (hturn : TakesTurn s (.command w) rest) (h : Reserved w) (hn : ∀ p, ¬ NamesSlot w p) :
    step s = .next (if portFree s = true ∧ s.control.waiting = []
      then answered .control .illegalCommand .none { s with inputs := rest }
      else holdWord .illegal { s with inputs := rest }) := by
  have hopen : controlOpen { s with inputs := rest } = true ↔ portFree s = true ∧ s.control.waiting = [] := by
    simp [controlOpen, portFree]
  rw [step_reserved hturn h, portOfWord_eq_control_iff.mpr hn]
  simp only [illegalWord, hopen]
  rfl

/-- Settles O3: the decoder's refusals, the routing, and the step at an open port. -/
theorem reservedWordAnsweredIllegal : Obligations.ReservedWordAnsweredIllegal := by
  refine ⟨fun _ => decodeCommand_error_iff, routing, fun s w rest hturn hres => ⟨fun hn hfree hwait => ?_, ?_⟩⟩
  · rw [step_reserved_control hturn hres hn, if_pos ⟨hfree, hwait⟩]
  · exact fun p hp _ => step_reserved_stream hturn hres hp

/-- Settles O4: a taken control port holds the word, a stream port does not, and the sequencer answers a held one. -/
theorem reservedWordAtATakenPort : Obligations.ReservedWordAtATakenPort := by
  refine ⟨fun s w rest hturn hres => ⟨fun hn htaken => ?_, ?_⟩, fun s held rest hturn hfree hwait => ?_⟩
  · have hclosed : ¬ (portFree s = true ∧ s.control.waiting = []) := by
      rintro ⟨hfree, hwait⟩
      exact htaken.elim (by simp [hfree]) (absurd hwait)
    rw [step_reserved_control hturn hres hn, if_neg hclosed]
    rfl
  · exact fun p hp _ => step_reserved_stream hturn hres hp
  · rw [step_sequencerTurn hturn, controlTurn_performs (s := { s with inputs := rest }) hfree hwait]
    rfl

end Sys2Proof.Proofs

/-! ## A NEXT_RECORD at either port, and the assembler -/

namespace Sys2Proof.Proofs

open Sys2Proof.Machine Sys2Proof.Claims

theorem ofNumber?_eq_none_of_notMem {a : Int} (h : a ∉ [29, 31, 32, 33, 36, 37]) : ButtonPin.ofNumber? a = none :=
  ButtonPin.ofNumber?_eq_none_iff.mpr fun p hp => h (by rw [hp]; cases p <;> decide)

/-- A NEXT_RECORD for no button pin is a command of the control port (R78). -/
theorem execState_nextRecord_none {a : Int} (h : ButtonPin.ofNumber? a = none) (s : State) :
    execState (.nextRecord a) s = onControl (.nextRecord a) (raiseError .control .noMonitor) s := by
  simp only [execState, nextRecordCommand, h]

theorem holdRequest_of_pending {p : ButtonPin} {s : State} (h : (s.streams.get p).pending = true) :
    holdRequest p s = { s with streams := s.streams.set p ⟨true, (s.streams.get p).waiting + 1⟩ } := by
  rw [holdRequest, portHeld, if_pos h]

theorem streamRequest_of_pending {p : ButtonPin} {s : State} (h : (s.streams.get p).pending = true) :
    streamRequest p s = holdRequest p s := if_pos h

/-- Settles O36: no button pin means the control port, and a pending request the queue behind it. -/
theorem nextRecordElsewhere : Obligations.NextRecordElsewhere := by
  constructor
  · intro a s hfree ha
    rw [exec_eq, execState_nextRecord_none (ofNumber?_eq_none_of_notMem ha), onControl_free hfree]
    rfl
  · intro p s hp
    rw [exec_eq, execState_nextRecord_number, streamRequest_of_pending hp, holdRequest_of_pending hp]

/-- Settles O60: the assembler evaluates the nine lines, brightness literals and all. -/
theorem assemblerGivesTheSpecsWords : Obligations.AssemblerGivesTheSpecsWords := by
  unfold Obligations.AssemblerGivesTheSpecsWords
  decide +kernel

end Sys2Proof.Proofs

/-! SUPPORT AND PROOFS of the statements about the strip controller (spec/40_strip_controller.md): the brightness, the
commands' checks and effects, the buffer they write, and TEARDOWN. -/

/-! ## The valid brightness -/

namespace Sys2Proof.Proofs

open Sys2Proof.Machine Sys2Proof.Claims

/-- VALID, on the exact values of the patterns (R100). -/
theorem validBri_iff_units {b : Binary64} :
    validBri b = true ↔
      b64IsNaN b = false ∧ b64Units flTenth ≤ b64Units b ∧ b64Units b ≤ b64Units flOne := by
  have hlo : b64IsNaN flTenth = false := by decide
  have hhi : b64IsNaN flOne = false := by decide
  simp only [validBri, b64Le, hlo, hhi, Bool.and_eq_true, Bool.not_eq_true', decide_eq_true_eq]
  tauto

theorem b64Units_of_lt {b : Binary64} (h : b.toNat < 2 ^ 63) : b64Units b = b64Magnitude b := by
  have hneg : b64Neg b = false := by rw [b64Neg_eq]; exact decide_eq_false (Nat.not_le.mpr h)
  rw [b64Units, hneg, if_neg Bool.false_ne_true]

/-- A pattern with sign 1 has no positive value. -/
theorem b64Units_nonpos_of_ge {b : Binary64} (h : 2 ^ 63 ≤ b.toNat) : b64Units b ≤ 0 := by
  have hneg : b64Neg b = true := by rw [b64Neg_eq]; exact decide_eq_true h
  rw [b64Units, if_pos hneg]
  omega

/-- Of two patterns with sign 0 the one of the smaller magnitude is the smaller number. -/
theorem toNat_lt_of_b64Magnitude_lt {b c : Binary64} (hb : b.toNat < 2 ^ 63) (hc : c.toNat < 2 ^ 63)
    (h : b64Magnitude b < b64Magnitude c) : b.toNat < c.toNat :=
  lt_of_not_ge fun hge => h.not_ge (b64Magnitude_mono hc hb hge)

/-- No pattern below the infinity's is a NaN (R17). -/
theorem b64IsNaN_eq_false_of_lt {b : Binary64} (h : b.toNat < 0x7FF0000000000000) : b64IsNaN b = false := by
  have hexp : b64Exp b ≠ 2047 := by rw [b64Exp_eq]; omega
  simp [b64IsNaN, hexp]

/-- Settles O8: a valid pattern has sign 0, and there values and patterns are in the same order. -/
theorem validBrightnessIsAnInterval : Obligations.ValidBrightnessIsAnInterval := by
  intro b
  have hlo : b64Units flTenth = b64Magnitude flTenth := by decide +kernel
  have hhi : b64Units flOne = b64Magnitude flOne := by decide +kernel
  rw [validBri_iff_units, hlo, hhi]
  constructor
  · rintro ⟨-, hge, hle⟩
    have hpos : 0 < b64Magnitude flTenth := by decide +kernel
    have hsign : b.toNat < 2 ^ 63 := by
      by_contra hneg
      have := b64Units_nonpos_of_ge (Nat.le_of_not_lt hneg)
      omega
    rw [b64Units_of_lt hsign] at hge hle
    have hbelow : b64Magnitude 0x3FB9999999999999 < b64Magnitude flTenth := by decide +kernel
    have habove : b64Magnitude flOne < b64Magnitude 0x3FF0000000000001 := by decide +kernel
    have hmin := toNat_lt_of_b64Magnitude_lt (b := 0x3FB9999999999999) (c := b) (by decide) hsign (by omega)
    have hmax := toNat_lt_of_b64Magnitude_lt (b := b) (c := 0x3FF0000000000001) hsign (by decide) (by omega)
    exact ⟨hmin, Nat.le_of_lt_succ hmax⟩
  · rintro ⟨hmin, hmax⟩
    have hsign : b.toNat < 2 ^ 63 := by omega
    rw [b64Units_of_lt hsign]
    exact ⟨b64IsNaN_eq_false_of_lt (by omega),
      Int.ofNat_le.mpr (b64Magnitude_mono (b := flTenth) (by decide) hsign hmin),
      Int.ofNat_le.mpr (b64Magnitude_mono (c := flOne) hsign (by decide) hmax)⟩

theorem sign_of_validBri {b : Binary64} (h : validBri b = true) : b.toNat < 2 ^ 63 := by
  have := (validBrightnessIsAnInterval b).mp h
  omega

/-! ## ENC -/

/-- The product 31.0 × b of a valid b has a floor of at most 31, as the product is 31 at b = 1.0 (R102). -/
theorem times31_div_le {b : Binary64} (h : validBri b = true) : times31 b / 2 ^ 1074 ≤ 31 := by
  have ht : times31 b ≤ times31 flOne :=
    times31_mono (sign_of_validBri h) (by decide) ((validBrightnessIsAnInterval b).mp h).2
  rw [times31_flOne] at ht
  exact Nat.div_le_of_le_mul (by rwa [Nat.mul_comm])

/-- The mask of ENC changes nothing (R102). -/
theorem encBri_toNat {b : Binary64} (h : validBri b = true) : (encBri b).toNat = times31 b / 2 ^ 1074 := by
  have hle := times31_div_le h
  rw [encBri, BitVec.toNat_ofNat, Nat.and_two_pow_sub_one_eq_mod _ 6]
  omega

theorem encBri_mono {b c : Binary64} (hb : validBri b = true) (hc : validBri c = true) (h : b.toNat ≤ c.toNat) :
    (encBri b).toNat ≤ (encBri c).toNat := by
  rw [encBri_toNat hb, encBri_toNat hc]
  exact Nat.div_le_div_right (times31_mono (sign_of_validBri hb) (sign_of_validBri hc) h)

/-- The rounded product at fl(0.1), the least valid brightness. -/
theorem times31_flTenth_div : times31 0x3FB999999999999A / 2 ^ 1074 = 3 := by decide +kernel

theorem encBri_ge {b : Binary64} (h : validBri b = true) : 3 ≤ (encBri b).toNat := by
  rw [encBri_toNat h, ← times31_flTenth_div]
  exact Nat.div_le_div_right
    (times31_mono (by decide) (sign_of_validBri h) ((validBrightnessIsAnInterval b).mp h).1)

/-- Settles O9: the rounded product keeps the order of the patterns, and its floor is 3 and 31 at the ends. -/
theorem encodedBrightnessRange : Obligations.EncodedBrightnessRange :=
  ⟨fun b => (validBrightnessIsAnInterval b).mp, times31_flTenth_div, times31_flOne,
    fun _ h => ⟨encBri_ge h, encBri_le h, encBri_toNat h⟩, fun _ _ => encBri_mono⟩

/-- From the pattern p on, and not before, the rounded product 31.0 × b has a floor of at least n (R103). -/
def Breakpoint (n : Nat) (p : Binary64) : Prop :=
  0 < p.toNat ∧ p.toNat < 2 ^ 63 ∧ times31 (p - 1) / 2 ^ 1074 < n ∧ n ≤ times31 p / 2 ^ 1074

/-- ENC(b) ≥ n exactly from n's breakpoint on. -/
theorem le_encBri_iff {n : Nat} {p b : Binary64} (hp : Breakpoint n p) (h : validBri b = true) :
    n ≤ (encBri b).toNat ↔ p.toNat ≤ b.toNat := by
  obtain ⟨hpos, hsign, hbelow, hat⟩ := hp
  have hpred : (p - 1).toNat = p.toNat - 1 := BitVec.toNat_sub_of_le hpos
  rw [encBri_toNat h]
  constructor
  · intro hn
    by_contra hlt
    have hb : times31 b ≤ times31 (p - 1) := times31_mono (sign_of_validBri h) (by omega) (by omega)
    have := Nat.div_le_div_right (c := 2 ^ 1074) hb
    omega
  · exact fun hge => hat.trans (Nat.div_le_div_right (times31_mono hsign (sign_of_validBri h) hge))

/-- The rows of R103's table: each pattern is fl(n/31), has the exact product's floor, and is n's breakpoint. -/
theorem breakpoints_rows : ∀ nb ∈ breakpoints,
    nb.2.1 = nearestPattern (nb.1 * 2 ^ 1074) 31 ∧ 31 * b64Magnitude nb.2.1 / 2 ^ 1074 = nb.2.2 ∧
      Breakpoint nb.1 nb.2.1 := by
  unfold Breakpoint
  decide +kernel

/-- The last breakpoint is 1.0, the greatest valid brightness. -/
theorem encBri_eq_31_iff {b : Binary64} (h : validBri b = true) : (encBri b).toNat = 31 ↔ b = flOne := by
  have hrow : (31, flOne, 31) ∈ breakpoints := by decide
  obtain ⟨-, -, hlast⟩ := breakpoints_rows _ hrow
  have hmax : b.toNat ≤ flOne.toNat := ((validBrightnessIsAnInterval b).mp h).2
  calc (encBri b).toNat = 31 ↔ 31 ≤ (encBri b).toNat := ⟨Eq.ge, (encBri_le h).antisymm⟩
    _ ↔ flOne.toNat ≤ b.toNat := le_encBri_iff hlast h
    _ ↔ b = flOne := ⟨fun hge => BitVec.eq_of_toNat_eq (hmax.antisymm hge), fun he => he ▸ le_rfl⟩

/-- Settles O10: the table's rows evaluate, and between them ENC is monotone. -/
theorem encodingBreakpoints : Obligations.EncodingBreakpoints := by
  refine ⟨fun nb hnb => ?_, fun _ h => ⟨encBri_ge h, encBri_eq_31_iff h⟩⟩
  obtain ⟨hnearest, hexact, hpoint⟩ := breakpoints_rows nb hnb
  exact ⟨hnearest, hexact, fun _ => le_encBri_iff hpoint⟩

end Sys2Proof.Proofs

/-! ## The strip's commands on a free control port -/

namespace Sys2Proof.Proofs

open Sys2Proof.Machine Sys2Proof.Claims

/-- What is left of a command that writes the buffer once its index or channel has passed: the brightness and the life
cycle are checked in this order, then the selected pixels are painted (R106 to R110). -/
def paintChecked (i : Instr) (f : Bool) (sel : Fin pixelCount → Bool) (r g b : Byte) (bri : Option Binary64)
    (s : State) : State :=
  if briInvalid bri then raiseError .control .invalidBrightness s
  else if s.lc ≠ .ready then raiseError .control .notReady s
  else finish i f (paint sel r g b (encOperand bri) s)

section

variable {r g b : Byte} {bri : Option Binary64} {f : Bool} {s : State}

theorem setPixelCommand_eq (a : Int) : setPixelCommand a r g b bri f s =
    if indexInRange a then paintChecked (.setPixel a r g b bri f) f (isPixel a) r g b bri s
    else raiseError .control .indexOutOfRange s := by
  cases h : indexInRange a <;> simp only [setPixelCommand, h] <;> rfl

theorem setChannelCommand_eq (a : Int) : setChannelCommand a r g b bri f s =
    if channelInRange a then paintChecked (.setChannel a r g b bri f) f (inChannel a) r g b bri s
    else raiseError .control .invalidChannel s := by
  cases h : channelInRange a <;> simp only [setChannelCommand, h] <;> rfl

theorem setAllCommand_eq : setAllCommand r g b bri f s =
    paintChecked (.setAll r g b bri f) f (fun _ => true) r g b bri s := rfl

/-- CLEAR_ALL paints every pixel black and supplies no brightness (R109). -/
theorem clearAllCommand_eq : clearAllCommand f s =
    paintChecked (.clearAll f) f (fun _ => true) 0 0 0 none s := rfl

variable {i : Instr} {sel : Fin pixelCount → Bool}

theorem paintChecked_of_briBad (h : BriBad bri) :
    paintChecked i f sel r g b bri s = answered .control .invalidBrightness .none s :=
  if_pos (briInvalid_eq_true_iff.mpr h)

theorem paintChecked_of_not_ready (h : BriOk bri) (hlc : s.lc ≠ .ready) :
    paintChecked i f sel r g b bri s = answered .control .notReady .none s := by
  rw [paintChecked, briInvalid_eq_false_iff.mpr h, if_neg Bool.false_ne_true, if_pos hlc]
  rfl

theorem paintChecked_of_ready (h : BriOk bri) (hlc : s.lc = .ready) :
    paintChecked i f sel r g b bri s = finished i f (paint sel r g b (encOperand bri) s).px s := by
  rw [paintChecked, briInvalid_eq_false_iff.mpr h, if_neg Bool.false_ne_true, if_neg (not_not.mpr hlc)]
  cases f <;> rfl

/-- The painted buffer is the one the rules R106 to R109 describe. -/
theorem paintedTo_paint {sel' : Fin 16 → Prop} (h : ∀ j, sel j = true ↔ sel' j) :
    PaintedTo s sel' r g b bri (paint sel r g b (encOperand bri) s).px := by
  intro j
  rw [← h j, paint_px_getElem]
  constructor
  · intro hj
    rw [if_pos hj]
    refine ⟨rfl, rfl, rfl, ?_, ?_⟩
    · rintro rfl; rfl
    · rintro x rfl; rfl
  · exact fun hj => if_neg hj

/-- In READY with a good brightness the selected pixels and no others are written, and the command finishes. -/
theorem paintChecked_paints {sel' : Fin 16 → Prop} (h : BriOk bri) (hlc : s.lc = .ready)
    (hsel : ∀ j, sel j = true ↔ sel' j) :
    ∃ px', PaintedTo s sel' r g b bri px' ∧ paintChecked i f sel r g b bri s = finished i f px' s :=
  ⟨_, paintedTo_paint hsel, paintChecked_of_ready h hlc⟩

end

theorem isPixel_iff {a : Int} {i : Fin pixelCount} : isPixel a i = true ↔ (i.val : Int) = a := by simp [isPixel]

/-- The pixels 8a to 8a + 7 are those whose index divided by 8 is a (R21). -/
theorem inChannel_iff {a : Int} {i : Fin pixelCount} :
    inChannel a i = true ↔ ((i.val / 8 : Nat) : Int) = a := by
  simp only [inChannel, decide_eq_true_eq]
  omega

theorem briOk_none : BriOk none := nofun

/-- Settles O12: the index first, then the checks and the painting that all these commands share. -/
theorem setPixelWritesOnePixel : Obligations.SetPixelWritesOnePixel := by
  intro a r g b bri f s hf
  rw [exec_eq, execState, onControl_free hf, setPixelCommand_eq]
  refine ⟨fun ha => ?_, fun h0 h15 hbad => ?_, fun h0 h15 hok hlc => ?_, fun h0 h15 hok hlc => ?_⟩
  · rw [if_neg (mt indexInRange_iff.mp (by omega))]
    rfl
  · rw [if_pos (indexInRange_iff.mpr ⟨h0, h15⟩), paintChecked_of_briBad hbad]
  · rw [if_pos (indexInRange_iff.mpr ⟨h0, h15⟩), paintChecked_of_not_ready hok hlc]
  · rw [if_pos (indexInRange_iff.mpr ⟨h0, h15⟩)]
    obtain ⟨px', hpx, he⟩ := paintChecked_paints hok hlc fun _ => isPixel_iff
    exact ⟨px', hpx, congrArg _ he⟩

/-- Settles O13: as SET_PIXEL, with the channel for the index. -/
theorem setChannelWritesEightPixels : Obligations.SetChannelWritesEightPixels := by
  intro a r g b bri f s hf
  rw [exec_eq, execState, onControl_free hf, setChannelCommand_eq]
  refine ⟨fun h0 h1 => ?_, fun ha hbad => ?_, fun ha hok hlc => ?_, fun ha hok hlc => ?_⟩
  · rw [if_neg (mt channelInRange_iff.mp (not_or.mpr ⟨h0, h1⟩))]
    rfl
  · rw [if_pos (channelInRange_iff.mpr ha), paintChecked_of_briBad hbad]
  · rw [if_pos (channelInRange_iff.mpr ha), paintChecked_of_not_ready hok hlc]
  · rw [if_pos (channelInRange_iff.mpr ha)]
    obtain ⟨px', hpx, he⟩ := paintChecked_paints hok hlc fun _ => inChannel_iff
    exact ⟨px', hpx, congrArg _ he⟩

/-- Settles O14: the shared checks and painting, with every pixel selected. -/
theorem setAllWritesEveryPixel : Obligations.SetAllWritesEveryPixel := by
  intro r g b bri f s hf
  rw [exec_eq, execState, onControl_free hf, setAllCommand_eq]
  refine ⟨fun hbad => ?_, fun hok hlc => ?_, fun hok hlc => ?_⟩
  · rw [paintChecked_of_briBad hbad]
  · rw [paintChecked_of_not_ready hok hlc]
  · obtain ⟨px', hpx, he⟩ := paintChecked_paints hok hlc fun _ => iff_of_true rfl trivial
    exact ⟨px', hpx, congrArg _ he⟩

/-- Settles O15: an omitted brightness passes its check, and is kept. -/
theorem clearAllKeepsBrightness : Obligations.ClearAllKeepsBrightness := by
  intro f s hf
  rw [exec_eq, execState, onControl_free hf, clearAllCommand_eq]
  refine ⟨fun hlc => ?_, fun hlc => ?_⟩
  · rw [paintChecked_of_not_ready briOk_none hlc]
  · obtain ⟨px', hpx, he⟩ := paintChecked_paints briOk_none hlc fun _ => iff_of_true rfl trivial
    exact ⟨px', hpx, congrArg _ he⟩

/-! ## INIT -/

theorem exec_init_free {bri : Option Binary64} {s : State} (hf : portFree s = true) :
    exec (.init bri) s = .next (initCommand bri s) := by
  rw [exec_eq, execState, onControl_free hf]

theorem initBri_some (x : Binary64) (s : State) : initBri (some x) s = encBri x := rfl

/-- P_DEFAULT_BRI fits the six bits of a brightness (R13). -/
theorem initBri_none_toNat (s : State) : (initBri none s).toNat = s.params.defaultBri.val :=
  Nat.mod_eq_of_lt (s.params.defaultBri.isLt.trans (by decide))

/-- Everything INIT does once its checks have passed (R105). -/
theorem initStrip_eq (e : Bri) (s : State) : initStrip e s =
    { s with
      px := Vector.replicate pixelCount ⟨0, 0, 0, e⟩
      lc := .ready
      pinCfg := { s.pinCfg with data := .output, clock := .output }
      dataQ := some false
      clkQ := some false
      gpio := s.gpio ++ [.openPin .data .output .none, .openPin .clock .output .none, .write .data false,
        .write .clock false]
      responses := s.responses ++ [⟨.control, .ok, .none⟩] } := by
  simp [initStrip, gpioOpen, gpioWrite, setLevel, fillBlack, respond, PinConfigs.set, configOfMode]

/-- Settles O11: the two checks in their order, then the opens, the low writes and the fill. -/
theorem initOpensAndFills : Obligations.InitOpensAndFills := by
  refine ⟨fun bri s hf hbad => ?_, fun bri s hf hok hlc => ?_, fun bri s hf hok hlc => ⟨initBri bri s, ?_, ?_, ?_⟩⟩
  · rw [exec_init_free hf, initCommand, if_pos (briInvalid_eq_true_iff.mpr hbad)]
    rfl
  · rw [exec_init_free hf, initCommand, briInvalid_eq_false_iff.mpr hok, if_neg Bool.false_ne_true, if_pos hlc]
    rfl
  · rintro x rfl
    exact initBri_some x s
  · rintro rfl
    exact initBri_none_toNat s
  · rw [exec_init_free hf, initCommand, briInvalid_eq_false_iff.mpr hok, if_neg Bool.false_ne_true, if_neg hlc,
      initStrip_eq]

/-! ## TEARDOWN -/

theorem exec_teardown_free {f : Bool} {s : State} (hf : portFree s = true) :
    exec (.teardown f) s = .next (teardownCommand f s) := by
  rw [exec_eq, execState, onControl_free hf]

/-- RELEASE is what R111 describes. -/
theorem release_eq_released (s : State) : release s = released s := release_eq s

/-- A blackened buffer has no colour and keeps each brightness (R109). -/
theorem paintedTo_blacken (s : State) : PaintedTo s (fun _ => True) 0 0 0 none (blacken s).px :=
  paintedTo_paint (bri := none) fun _ => iff_of_true rfl trivial

/-- The sequencer's turn in BUSY(k, cont) makes write k and moves on (R144). -/
theorem controlTurn_busy {s : State} {k : Fin renderWrites} {cont : Continuation} (hrs : s.rs = .busy k cont)
    (hlc : s.lc ≠ .uninit) :
    controlTurn s =
      .next (advanceRender k cont (gpioWrite (renderWrite s.px k.val).1 (renderWrite s.px k.val).2 s)) := by
  simp only [controlTurn, hrs, renderStep, if_neg hlc]

/-- Write 1739 is the clock's last falling edge, and cont follows in the same step (R144). -/
theorem controlTurn_last {s : State} {k : Fin renderWrites} {cont : Continuation} (hk : k.val = 1739)
    (hrs : s.rs = .busy k cont) (hlc : s.lc ≠ .uninit) :
    controlTurn s = .next (continueWith cont { gpioWrite .clock false s with rs := .idle }) := by
  have hwrite : renderWrite s.px 1739 = (.clock, false) := rfl
  rw [controlTurn_busy hrs hlc, hk, hwrite]
  rcases advanceRender_cases k cont (gpioWrite .clock false s) with ⟨hlt, -⟩ | ⟨-, he⟩
  · have : k.val + 1 < 1740 := hlt
    omega
  · rw [he]

/-- Settles O16: RELEASE at once, or after a clear and a render, whose last write performs it. -/
theorem teardownReleasesThePins : Obligations.TeardownReleasesThePins := by
  refine fun f s hf => ⟨fun hnot => ?_, fun hf' hlc => ⟨(blacken s).px, paintedTo_blacken s, ?_⟩, ?_⟩
  · have hcond : ¬ (f = true ∧ s.lc = .ready) := by
      rintro ⟨rfl, hlc⟩
      exact hnot.elim nofun (absurd hlc)
    rw [exec_teardown_free hf, teardownCommand, if_neg hcond, release_eq_released]
  · rw [exec_teardown_free hf, teardownCommand, if_pos ⟨hf', hlc⟩]
    rfl
  · intro k t rest hk hrs hlc hturn
    rw [step_sequencerTurn hturn, controlTurn_last (s := { t with inputs := rest }) hk hrs hlc, continueWith,
      release_eq_released]
    rfl

end Sys2Proof.Proofs

/-! ## What the strip's commands leave unchanged -/

namespace Sys2Proof.Proofs

open Sys2Proof.Machine Sys2Proof.Claims

/-- From s to t the monitors, their stream ports, the signals, the time, the turns and the parameters stay (R228). -/
structure SameMonitors (s t : State) : Prop where
  slots : t.slots = s.slots
  streams : t.streams = s.streams
  signals : t.signals = s.signals
  nowMs : t.nowMs = s.nowMs
  inputs : t.inputs = s.inputs
  params : t.params = s.params

/-- The monitors stay, and so does the configuration of the button pins. -/
structure StripOnly (s t : State) : Prop extends SameMonitors s t where
  buttons : t.pinCfg.buttons = s.pinCfg.buttons

theorem sameMonitors_release (s : State) : SameMonitors s (release s) := by constructor <;> simp

theorem stripOnly_respond (port : PortId) (code : Code) (payload : Payload) (s : State) :
    StripOnly s (respond port code payload s) := ⟨⟨rfl, rfl, rfl, rfl, rfl, rfl⟩, rfl⟩

theorem stripOnly_raiseError (code : Code) (s : State) : StripOnly s (raiseError .control code s) :=
  stripOnly_respond ..

theorem stripOnly_holdWord (w : HeldWord) (s : State) : StripOnly s (holdWord w s) :=
  ⟨⟨rfl, rfl, rfl, rfl, rfl, rfl⟩, rfl⟩

theorem stripOnly_initStrip (e : Bri) (s : State) : StripOnly s (initStrip e s) :=
  ⟨⟨rfl, rfl, rfl, rfl, rfl, rfl⟩, rfl⟩

theorem stripOnly_startRender (i : Instr) (cont : Continuation) (s : State) : StripOnly s (startRender i cont s) :=
  ⟨⟨rfl, rfl, rfl, rfl, rfl, rfl⟩, rfl⟩

theorem stripOnly_startRender_blacken (i : Instr) (cont : Continuation) (s : State) :
    StripOnly s (startRender i cont (blacken s)) := ⟨by constructor <;> simp, by simp⟩

theorem stripOnly_finish_paint (i : Instr) (f : Bool) (sel : Fin pixelCount → Bool) (r g b : Byte) (e : Option Bri)
    (s : State) : StripOnly s (finish i f (paint sel r g b e s)) := by
  cases f <;> exact ⟨by constructor <;> simp [finish], by simp [finish]⟩

theorem stripOnly_paintChecked (i : Instr) (f : Bool) (sel : Fin pixelCount → Bool) (r g b : Byte)
    (bri : Option Binary64) (s : State) : StripOnly s (paintChecked i f sel r g b bri s) :=
  iteInduction (fun _ => stripOnly_raiseError ..) fun _ =>
    iteInduction (fun _ => stripOnly_raiseError ..) fun _ => stripOnly_finish_paint ..

theorem stripOnly_initCommand (bri : Option Binary64) (s : State) : StripOnly s (initCommand bri s) :=
  iteInduction (fun _ => stripOnly_raiseError ..) fun _ =>
    iteInduction (fun _ => stripOnly_raiseError ..) fun _ => stripOnly_initStrip ..

theorem stripOnly_setPixelCommand (a : Int) (r g b : Byte) (bri : Option Binary64) (f : Bool) (s : State) :
    StripOnly s (setPixelCommand a r g b bri f s) := by
  rw [setPixelCommand_eq]
  exact iteInduction (fun _ => stripOnly_paintChecked ..) fun _ => stripOnly_raiseError ..

theorem stripOnly_setChannelCommand (a : Int) (r g b : Byte) (bri : Option Binary64) (f : Bool) (s : State) :
    StripOnly s (setChannelCommand a r g b bri f s) := by
  rw [setChannelCommand_eq]
  exact iteInduction (fun _ => stripOnly_paintChecked ..) fun _ => stripOnly_raiseError ..

theorem stripOnly_renderCommand (s : State) : StripOnly s (renderCommand s) :=
  iteInduction (fun _ => stripOnly_raiseError ..) fun _ => stripOnly_startRender ..

/-- TEARDOWN closes the button pins and leaves their instances (R111). -/
theorem sameMonitors_teardownCommand (f : Bool) (s : State) : SameMonitors s (teardownCommand f s) :=
  iteInduction (fun _ => (stripOnly_startRender_blacken ..).toSameMonitors) fun _ => sameMonitors_release s

theorem stripOnly_onControl {i : Instr} {perform : State → State} {s : State} (h : StripOnly s (perform s)) :
    StripOnly s (onControl i perform s) :=
  iteInduction (fun _ => h) fun _ => stripOnly_holdWord ..

theorem sameMonitors_onControl {i : Instr} {perform : State → State} {s : State} (h : SameMonitors s (perform s)) :
    SameMonitors s (onControl i perform s) :=
  iteInduction (fun _ => h) fun _ => (stripOnly_holdWord ..).toSameMonitors

/-- Settles O59: each of the eight commands is held, or has the frame of its effect. -/
theorem stripCommandsLeaveTheMonitors : Obligations.StripCommandsLeaveTheMonitors := by
  intro i s t hi h
  rw [exec_eq] at h
  cases h
  have frame : StripOnly s (execState i s) ∨ (SameMonitors s (execState i s) ∧ ∃ f, i = .teardown f) := by
    rcases hi with ⟨bri, rfl⟩ | ⟨a, r, g, b, bri, f, rfl⟩ | ⟨a, r, g, b, bri, f, rfl⟩ | ⟨r, g, b, bri, f, rfl⟩ |
      ⟨f, rfl⟩ | rfl | ⟨f, rfl⟩ | rfl
    · exact .inl (stripOnly_onControl (stripOnly_initCommand bri s))
    · exact .inl (stripOnly_onControl (stripOnly_setPixelCommand a r g b bri f s))
    · exact .inl (stripOnly_onControl (stripOnly_setChannelCommand a r g b bri f s))
    · exact .inl (stripOnly_onControl (stripOnly_paintChecked (.setAll r g b bri f) f _ r g b bri s))
    · exact .inl (stripOnly_onControl (stripOnly_paintChecked (.clearAll f) f _ 0 0 0 none s))
    · exact .inl (stripOnly_onControl (stripOnly_renderCommand s))
    · exact .inr ⟨sameMonitors_onControl (sameMonitors_teardownCommand f s), f, rfl⟩
    · exact .inl (stripOnly_onControl (stripOnly_respond ..))
  have same : SameMonitors s (execState i s) := frame.elim (·.toSameMonitors) (·.1)
  obtain ⟨slots, streams, signals, nowMs, inputs, params⟩ := same
  exact ⟨slots, streams, signals, nowMs, inputs, params, frame.imp (·.buttons) (·.2)⟩

/-! ## The cleared frame -/

/-- CLEAR_ALL's blackening, pixel by pixel (R109). -/
theorem blacken_px (s : State) : (blacken s).px = s.px.map fun p => ⟨0, 0, 0, p.bri⟩ := by
  ext i hi : 1
  simpa using blacken_px_getElem s ⟨i, hi⟩

/-- A black pixel's frame is its global byte and 24 zeros (R84). -/
theorem pixelFrame_black (e : Bri) :
    pixelFrame ⟨0, 0, 0, e⟩ = bits8 (0xE0 ||| e.zeroExtend 8) ++ List.replicate 24 false := by
  have hzero : bits8 0#8 = List.replicate 8 false := rfl
  simp [pixelFrame, pixelBytes, globalByte, hzero]

/-- Settles O27: blackening keeps each pixel's place and brightness, and a black pixel's frame carries no colour. -/
theorem clearedFrameKeepsBrightness : Obligations.ClearedFrameKeepsBrightness := by
  intro s
  simp only [frame, blacken_px, Vector.toList_map, List.flatMap_map, pixelFrame_black]

end Sys2Proof.Proofs

/-! SUPPORT AND PROOFS of the statements about the frame encoder (spec/41_frame_encoder.md): the render sequence as
numbered writes, its wire bit stream, and the render sequencer's steps. -/

/-! ## The render sequence -/

namespace Sys2Proof.Proofs

open Sys2Proof.Machine Sys2Proof.Claims

/-- Settles O20: the frame is of constant length, and R144's arithmetic finds its bits. -/
theorem frameBitIsTheFrame : Obligations.FrameBitIsTheFrame :=
  fun px => ⟨frame_length px, fun _ => frame_getElem? px⟩

/-- The first n bits of the frame, one after the other as the render sequencer finds them (R144). -/
theorem frame_take_eq_map (px : Vector Pixel pixelCount) {n : Nat} (h : n ≤ 580) :
    (frame px).take n = (List.range n).map (frameBit px) := by
  induction n with
  | zero => rfl
  | succ n ih => rw [frame_take_succ px h, ih (Nat.le_of_succ_le h), List.range_succ, List.map_append]; rfl

theorem frame_eq_map (px : Vector Pixel pixelCount) : frame px = (List.range 580).map (frameBit px) := by
  rw [← frame_take_eq_map px le_rfl, List.take_of_length_le (frame_length px).le]

/-- Write number k of a render, as an event of the GPIO trace (R144). -/
def writeEvent (px : Vector Pixel pixelCount) (k : Nat) : GpioEvent := .write (renderWrite px k).1 (renderWrite px k).2

/-- Three consecutive numbered writes send one bit of the frame (R141, R144). -/
theorem sendBit_frameBit (px : Vector Pixel pixelCount) (j : Nat) :
    sendBit (frameBit px j) = [writeEvent px (3 * j), writeEvent px (3 * j + 1), writeEvent px (3 * j + 2)] := by
  have h0 : 3 * j % 3 = 0 := by omega
  have h1 : (3 * j + 1) % 3 = 1 := by omega
  have h2 : (3 * j + 2) % 3 = 2 := by omega
  have hj : 3 * j / 3 = j := by omega
  simp [sendBit, writeEvent, renderWrite, h0, h1, h2, hj]

theorem flatMap_sendBit_frameBit (px : Vector Pixel pixelCount) (n : Nat) :
    ((List.range n).map (frameBit px)).flatMap sendBit = (List.range (3 * n)).map (writeEvent px) := by
  induction n with
  | zero => rfl
  | succ n ih =>
    rw [List.range_succ, List.map_append, List.flatMap_append, ih, Nat.mul_succ, List.range_add, List.map_append]
    simp [sendBit_frameBit, List.range_succ]

theorem renderSequence_eq_map (px : Vector Pixel pixelCount) :
    renderSequence px = (List.range 1740).map (writeEvent px) := by
  rw [renderSequence_eq, frame_eq_map, flatMap_sendBit_frameBit]

/-- Settles O21: SENDBYTE sends the frame's bits, and each bit is three of the numbered writes. -/
theorem renderSequenceIsTheNumberedWrites : Obligations.RenderSequenceIsTheNumberedWrites := renderSequence_eq_map

/-! ## The wire bit stream of a render -/

/-- From a low clock, the bits sent are the bits on the wire: each pulse starts low and ends low (R41, R141). -/
theorem wireFrom_flatMap_sendBit (d : Option Bool) (bits : List Bool) :
    wireFrom d (some false) (bits.flatMap sendBit) = some bits := by
  induction bits generalizing d with
  | nil => rfl
  | cons b bits ih => simp [sendBit, wireFrom, ih]

/-- A red pixel of full brightness is the bytes FF 00 00 FF (R84). -/
theorem pixelFrame_red :
    pixelFrame ⟨255, 0, 0, 31⟩ = List.replicate 8 true ++ List.replicate 16 false ++ List.replicate 8 true := by decide

/-- Settles O22: RENDER_SEQ sends the frame's bits from a low clock; the red frame is its pixels' bytes. -/
theorem wireStreamOfARenderIsTheFrame : Obligations.WireStreamOfARenderIsTheFrame := by
  refine ⟨fun px d => ?_, ?_⟩
  · rw [renderSequence_eq]
    exact wireFrom_flatMap_sendBit d (frame px)
  · rw [frame, Vector.toList_replicate, List.flatMap_replicate, pixelFrame_red]

end Sys2Proof.Proofs

/-! ## The render sequencer's steps -/

namespace Sys2Proof.Proofs

open Sys2Proof.Machine Sys2Proof.Claims

/-- The write of step k, by its phase (R144). -/
theorem gpioWrite_renderWrite (s : State) (k : Nat) (rest : List Turn) :
    gpioWrite (renderWrite s.px k).1 (renderWrite s.px k).2 { s with inputs := rest } =
      written k (frameBit s.px (k / 3)) rest s := by
  obtain h | h | h : k % 3 = 0 ∨ k % 3 = 1 ∨ k % 3 = 2 := by omega
  all_goals simp [written, renderWrite, gpioWrite, setLevel, h]

/-- The sequencer's turn, in both its forms, in BUSY(k, cont) (R144; log 9). -/
theorem step_busy {s : State} {k : Fin renderWrites} {cont : Continuation} {rest : List Turn}
    (hrs : s.rs = .busy k cont) (hlc : s.lc ≠ .uninit) (hturn : SequencerTurn s rest) :
    step s = .next (advanceRender k cont (written k.val (frameBit s.px (k.val / 3)) rest s)) := by
  rw [← gpioWrite_renderWrite, step_sequencerTurn hturn]
  exact controlTurn_busy (s := { s with inputs := rest }) hrs hlc

theorem advanceRender_of_lt {k : Fin renderWrites} {cont : Continuation} {s : State} (h : k.val + 1 < renderWrites) :
    advanceRender k cont s = { s with rs := .busy ⟨k.val + 1, h⟩ cont } := dif_pos h

theorem advanceRender_of_last {k : Fin renderWrites} {cont : Continuation} {s : State} (h : k.val = 1739) :
    advanceRender k cont s = continueWith cont { s with rs := .idle } := dif_neg (by rw [h]; decide)

theorem written_control (k : Nat) (b : Bool) (rest : List Turn) (s : State) :
    (written k b rest s).control = s.control := by
  unfold written
  split_ifs <;> rfl

theorem written_responses (k : Nat) (b : Bool) (rest : List Turn) (s : State) :
    (written k b rest s).responses = s.responses := by
  unfold written
  split_ifs <;> rfl

/-- Settles O23: the write of the phase, then RS moves on, or the continuation follows write 1739. -/
theorem renderMakesOneWriteAStep : Obligations.RenderMakesOneWriteAStep := by
  intro s k cont rest hrs hlc hturn
  have hlt := k.isLt
  have hstep := step_busy hrs hlc hturn
  refine ⟨frameBit s.px (k.val / 3), frame_getElem? s.px (by omega), fun h => ?_, fun hk hcont => ?_,
    fun hk hcont => ?_⟩
  · rw [hstep, advanceRender_of_lt h]
  · rw [hstep, advanceRender_of_last hk, hcont, continueWith, release_eq_released]
  · rw [hstep, advanceRender_of_last hk, hcont, continueWith, respondDone]
    simp only [respond, written_control, written_responses]

theorem exec_render_free {s : State} (hf : portFree s = true) : exec .render s = .next (renderCommand s) := by
  rw [exec_eq, execState, onControl_free hf]

/-- Settles O17: the check of READY, the start, and the last write, whose continuation answers. -/
theorem renderStartsTheSequence : Obligations.RenderStartsTheSequence := by
  refine fun s hf => ⟨fun hlc => ?_, fun hlc => ?_, fun k t rest hk hrs hlc hturn => ?_⟩
  · rw [exec_render_free hf, renderCommand, if_pos hlc]
    rfl
  · rw [exec_render_free hf, renderCommand, if_neg (not_not.mpr hlc)]
    rfl
  · rw [step_sequencerTurn hturn, controlTurn_last (s := { t with inputs := rest }) hk hrs hlc]
    rfl

end Sys2Proof.Proofs

/-! ## A render left to itself -/

namespace Sys2Proof.Proofs

open Sys2Proof.Machine Sys2Proof.Claims

/-- A NEXT_RECORD holds exactly at a MONITORING slot before its settle flag or with nothing queued (R179). -/
theorem evalRequest_eq_none_iff {p : ButtonPin} {s : State} :
    evalRequest p s = none ↔
      ∃ i, s.slots.get p = some i ∧ i.st = .monitoring ∧ (i.monitoring = false ∨ i.queue = []) := by
  rcases evalRequest_cases p s with ⟨hs, he⟩ | ⟨i, hs, hst, -, he⟩ | ⟨i, v, rest, hs, hq, hst, he⟩ |
    ⟨i, hs, hst, hm, he⟩
  · simp [he, hs]
  · simp [he, hs, hst]
  · rcases hst with ⟨hst, -⟩ | ⟨-, hm⟩
    · simp [he, hs, hst]
    · simp [he, hs, hq, hm]
  · exact iff_of_true he ⟨i, hs, hst, hm⟩

/-- Which held requests are ready depends on the slots and their ports only (R179). -/
theorem readySlot_congr {s t : State} (hslots : t.slots = s.slots) (hstreams : t.streams = s.streams) :
    readySlot t = readySlot s := by
  have hready : requestReady t = requestReady s := by
    funext p
    have hnone : evalRequest p t = none ↔ evalRequest p s = none := by
      rw [evalRequest_eq_none_iff, evalRequest_eq_none_iff, hslots]
    rw [requestReady, requestReady, hstreams, Bool.eq_iff_iff]
    simp only [Bool.and_eq_true, Option.isSome_iff_ne_none, ne_eq, hnone]
  rw [readySlot, readySlot, hready]

/-- The state with the events l added to the GPIO trace, and the levels they leave (R25, R31). -/
def afterEvents (l : List GpioEvent) (s : State) : State :=
  { s with
    dataQ := (levelsFrom s.dataQ s.clkQ l).1
    clkQ := (levelsFrom s.dataQ s.clkQ l).2
    gpio := s.gpio ++ l }

theorem gpioWrite_eq_afterEvents (p : Pin) (level : Bool) (s : State) :
    gpioWrite p level s = afterEvents [.write p level] s := by cases p <;> rfl

theorem afterEvents_cons (e : GpioEvent) (l : List GpioEvent) (s : State) :
    afterEvents (e :: l) s = afterEvents l (afterEvents [e] s) := by
  have h : levelsFrom s.dataQ s.clkQ (e :: l) = _ := levelsFrom_append s.dataQ s.clkQ [e] l
  simp [afterEvents, h]

/-- A render is before write k, and no agent but the control sequencer has a turn (R144; log 9). -/
structure RendersAlone (s : State) (k : Fin renderWrites) (cont : Continuation) : Prop where
  rs : s.rs = .busy k cont
  value : s.lc ≠ .uninit
  inputs : s.inputs = []
  ready : readySlot s = none

theorem RendersAlone.step_eq {s : State} {k : Fin renderWrites} {cont : Continuation} (h : RendersAlone s k cont) :
    step s = .next (advanceRender k cont (afterEvents [writeEvent s.px k.val] s)) := by
  rw [step_idle h.inputs h.ready, controlTurn_busy h.rs h.value, gpioWrite_eq_afterEvents]
  rfl

theorem RendersAlone.succ {s : State} {k : Fin renderWrites} {cont : Continuation} (h : RendersAlone s k cont)
    (hlt : k.val + 1 < renderWrites) (l : List GpioEvent) :
    RendersAlone { afterEvents l s with rs := .busy ⟨k.val + 1, hlt⟩ cont } ⟨k.val + 1, hlt⟩ cont := by
  refine ⟨rfl, h.value, h.inputs, ?_⟩
  rw [← h.ready]
  exact readySlot_congr rfl rfl

/-- A step of the machine, then the rest of the run. -/
theorem run_succ_of_step {s t : State} (h : step s = .next t) (n : Nat) :
    Host.Core.run core (n + 1) s = Host.Core.run core n t := by
  have hcore : core.step s = .next t := h
  simp only [Host.Core.run, hcore]

/-- From write k on, the n + 1 writes that are left are made one a step, and cont follows the last (R144). -/
theorem RendersAlone.run_eq (n : Nat) {s : State} {k : Fin renderWrites} {cont : Continuation}
    (h : RendersAlone s k cont) (hk : k.val + n = 1739) :
    Host.Core.run core (n + 1) s = .next (continueWith cont
      (afterEvents ((List.range' k.val (n + 1)).map (writeEvent s.px)) { s with rs := .idle })) := by
  induction n generalizing s k with
  | zero =>
    rw [run_succ_of_step h.step_eq, advanceRender_of_last hk]
    rfl
  | succ n ih =>
    have hlt : k.val + 1 < 1740 := by omega
    have hk' : k.val + 1 + n = 1739 := by omega
    have hrest := ih (h.succ hlt [writeEvent s.px k.val]) hk'
    rw [run_succ_of_step h.step_eq, advanceRender_of_lt hlt, List.range'_succ, List.map_cons,
      afterEvents_cons _ (List.map ..)]
    exact hrest

/-- Bits sent one after the other leave the last of them on the data line, and the clock low (R141). -/
theorem levelsFrom_flatMap_sendBit_concat (d c : Option Bool) (bits : List Bool) (b : Bool) :
    levelsFrom d c ((bits ++ [b]).flatMap sendBit) = (some b, some false) := by
  rw [List.flatMap_append, levelsFrom_append]
  rfl

/-- The frame ends with a zero, so a render leaves both lines low (R85, R145). -/
theorem levelsFrom_renderSequence (d c : Option Bool) (px : Vector Pixel pixelCount) :
    levelsFrom d c (renderSequence px) = (some false, some false) := by
  have hlast : frame px = (frame px).take 579 ++ [false] := by
    rw [← show frameBit px 579 = false from rfl, ← frame_take_succ px (by decide),
      List.take_of_length_le (frame_length px).le]
  rw [renderSequence_eq, hlast, levelsFrom_flatMap_sendBit_concat]

/-- Settles O24: the 1740 writes run to the end, and are RENDER_SEQ. -/
theorem renderRunsToCompletion : Obligations.RenderRunsToCompletion := by
  intro s cont hrs hlc hin hready
  have hseq : (List.range' 0 1740).map (writeEvent s.px) = renderSequence s.px := by
    rw [← List.range_eq_range', renderSequence_eq_map]
  have hrun := RendersAlone.run_eq 1739 ⟨hrs, hlc, hin, hready⟩ rfl
  rw [Fin.val_zero, hseq, afterEvents, levelsFrom_renderSequence] at hrun
  exact hrun

end Sys2Proof.Proofs

/-! SUPPORT AND PROOFS of the statements about the button monitor (spec/42_button_monitor.md): the commands, the settle
step, the poll tick, the pulled and the held NEXT_RECORD, and what follows for a press and after a TEARDOWN. -/

/-! ## The monitor's commands and the settle step -/

namespace Sys2Proof.Proofs

open Sys2Proof.Machine Sys2Proof.Claims

/-- Settles O28: the answer is the button table, read in no other part of the state. -/
theorem buttonSpecsAnswered : Obligations.ButtonSpecsAnswered := fun s hf => by
  rw [exec_eq, execState, onControl_free hf]
  rfl

theorem exec_monitorButton_free {a : Int} {s : State} (hf : portFree s = true) :
    exec (.monitorButton a) s = .next (monitorButtonCommand a s) := by
  rw [exec_eq, execState, onControl_free hf]

theorem monitorButtonCommand_of_none {a : Int} (h : ButtonPin.ofNumber? a = none) (s : State) :
    monitorButtonCommand a s = raiseError .control .pinUnavailable s := by
  simp only [monitorButtonCommand, h]

theorem monitorButtonCommand_number (p : ButtonPin) (s : State) :
    monitorButtonCommand p.number s =
      if s.pinCfg.get (.button p) ≠ .closed then raiseError .control .pinUnavailable s else startMonitor p s := by
  simp only [monitorButtonCommand, ButtonPin.ofNumber?_number]

/-- Settles O29: the two checks in their order, then the open and the new instance. -/
theorem monitorButtonStartsAnInstance : Obligations.MonitorButtonStartsAnInstance := by
  refine ⟨fun a s hf ha => ?_, fun p s hf hp => ?_, fun p s hf hp => ?_⟩ <;> rw [exec_monitorButton_free hf]
  · rw [monitorButtonCommand_of_none (ofNumber?_eq_none_of_notMem ha)]
    rfl
  · rw [monitorButtonCommand_number, if_pos hp]
    rfl
  · rw [monitorButtonCommand_number, if_neg (not_not_intro hp)]
    rfl

theorem settleStep_of_none {p : ButtonPin} {s : State} (h : s.slots.get p = none) : settleStep p s = s := by
  simp only [settleStep, h]

theorem settleStep_of_some {p : ButtonPin} {s : State} {i : Monitor} (h : s.slots.get p = some i) :
    settleStep p s =
      if settleDue s.nowMs i then emit (.monitoring p) (setSlot p { i with monitoring := true } s) else s := by
  simp only [settleStep, h]

/-- Settles O30: the settle step is enabled exactly where R172 says, and there is none elsewhere. -/
theorem settleAfterTheDelay : Obligations.SettleAfterTheDelay := by
  intro s p rest hturn
  have hstep : step s = .next (settleStep p { s with inputs := rest }) := step_takesTurn hturn
  rw [hstep]
  refine ⟨fun i hi hm ht => ?_, fun i hi hn => ?_, fun hi => ?_⟩
  · rw [settleStep_of_some (s := { s with inputs := rest }) hi, if_pos (settleDue_iff.mpr ⟨hm, ht⟩)]
    rfl
  · have hdue : ¬ settleDue s.nowMs i = true := fun h => by
      obtain ⟨hm, ht⟩ := settleDue_iff.mp h
      rcases hn with hn | hn
      · simp [hm] at hn
      · omega
    rw [settleStep_of_some (s := { s with inputs := rest }) hi, if_neg hdue]
  · rw [settleStep_of_none (s := { s with inputs := rest }) hi]

end Sys2Proof.Proofs

/-! ## The poll tick -/

namespace Sys2Proof.Proofs

open Sys2Proof.Machine Sys2Proof.Claims

/-- Settles O34: a bounded queue is full exactly at its capacity, and an unbounded one never. -/
theorem tickQueueAppend : Obligations.TickQueueAppend := by
  refine fun i v => ⟨rfl, fun n hn hfull => ?_, fun n hn hroom => ?_⟩
  · exact if_pos (queueFull_bounded.mpr hfull)
  · exact if_neg (mt queueFull_bounded.mp hroom)

/-- The poll-tick step exists exactly at a slot that receives ticks (R173). -/
theorem tickStep_of_ticking {p : ButtonPin} {i : Monitor} {s : State} (level : Bool) (h : Ticking s p i) :
    tickStep p level s = tickInstance p level i s := by
  obtain ⟨hslot, hst, hpin⟩ := h
  simp only [tickStep, hslot, tickEnabled_some_iff.mpr ⟨hst, hpin⟩, if_true]

theorem tickStep_of_not_ticking {p : ButtonPin} {s : State} (level : Bool) (h : ∀ i, ¬ Ticking s p i) :
    tickStep p level s = s := by
  unfold tickStep
  split
  · rfl
  · rename_i i hslot
    exact if_neg fun hen => h i ⟨hslot, tickEnabled_some_iff.mp hen⟩

theorem exec_pollTick_of_ticking {p : ButtonPin} {i : Monitor} {s : State} (level : Bool) (h : Ticking s p i) :
    exec (.pollTick p.number level) s = .next (tickInstance p level i s) := by
  rw [exec_eq, execState_pollTick_number, tickStep_of_ticking level h]

/-- Settles O31: no pin means no slot, and a slot without ticks has no poll-tick step. -/
theorem noTickOutsideMonitoring : Obligations.NoTickOutsideMonitoring := by
  refine ⟨fun pin level s hpin => ?_, fun p level s h => ?_⟩
  · have hnone : ButtonPin.ofNumber? (pin : Int) = none :=
      ofNumber?_eq_none_of_notMem fun hm => hpin (by simp only [List.mem_cons, List.not_mem_nil, or_false] at hm ⊢; omega)
    simp only [exec_eq, execState, pollTickEvent, hnone]
  · rw [exec_eq, execState_pollTick_number, tickStep_of_not_ticking level h]

/-- Settles O32: a low level is the press of `tickInstance`. -/
theorem pressTick : Obligations.PressTick := fun _ _ _ h => exec_pollTick_of_ticking false h

theorem tickInstance_release {p : ButtonPin} {i : Monitor} {s : State} (h : ¬ Expired s i) :
    tickInstance p true i s =
      setSlot p { appendState s.params.queueCap false i with lastPress := 0 } (emit (.pinChange p false) s) := by
  rcases tickInstance_cases p true i s with ⟨hl, -⟩ | ⟨-, -, he⟩ | ⟨-, hx, -⟩
  · cases hl
  · exact he
  · exact absurd (idleExpired_iff.mp hx) h

theorem tickInstance_timeout {p : ButtonPin} {i : Monitor} {s : State} (h : Expired s i) :
    tickInstance p true i s =
      closeMonitor p (appendState s.params.queueCap false i) (emit (.pinChange p false) s) := by
  rcases tickInstance_cases p true i s with ⟨hl, -⟩ | ⟨-, hx, -⟩ | ⟨-, -, he⟩
  · cases hl
  · exact absurd (idleExpired_iff.mpr h) (by simp [hx])
  · exact he

/-- Settles O33: a release keeps the instance or, past the idle timeout, closes it. -/
theorem releaseTick : Obligations.ReleaseTick := by
  refine fun p i s h => ⟨fun hx => ?_, fun hx => ?_⟩ <;> rw [exec_pollTick_of_ticking true h]
  · rw [tickInstance_release hx]
    rfl
  · rw [tickInstance_timeout hx]
    simp [closeMonitor, emit, gpioClose, setSlot]

end Sys2Proof.Proofs

/-! ## The pulled and the held NEXT_RECORD -/

namespace Sys2Proof.Proofs

open Sys2Proof.Machine Sys2Proof.Claims

/-- Settles O38: each record evaluates. -/
theorem recordBytes : Obligations.RecordBytes := by
  unfold Obligations.RecordBytes
  decide

theorem evalRequest_of_empty_slot {p : ButtonPin} {s : State} (h : s.slots.get p = none) :
    evalRequest p s = some (raiseError (.stream p) .noMonitor s) := by
  simp only [evalRequest, h]

theorem evalRequest_of_closed {p : ButtonPin} {s : State} {i : Monitor} (hi : s.slots.get p = some i)
    (hst : i.st = .closed) (hd : s.params.drainBeforeEnd = false) :
    evalRequest p s = some (respond (.stream p) .ended .none s) := by
  simp [evalRequest, hi, hst, hd]

theorem evalRequest_of_record {p : ButtonPin} {s : State} {i : Monitor} {v : Bool} {rest : List Bool}
    (hi : s.slots.get p = some i) (hst : i.st = .monitoring) (hm : i.monitoring = true) (hq : i.queue = v :: rest) :
    evalRequest p s = some (deliver p i v rest s) := by
  simp [evalRequest, hi, hst, hm, hq]

theorem exec_nextRecord_answers {p : ButtonPin} {s u : State} (hp : (s.streams.get p).pending = false)
    (he : evalRequest p s = some u) : exec (.nextRecord p.number) s = .next u := by
  rw [exec_eq, execState_nextRecord_number, streamRequest, hp, he]
  rfl

theorem exec_nextRecord_holds {p : ButtonPin} {s : State} (hp : (s.streams.get p).pending = false)
    (he : evalRequest p s = none) : exec (.nextRecord p.number) s = .next { s with
      streams := s.streams.set p { s.streams.get p with pending := true } } := by
  rw [exec_eq, execState_nextRecord_number, streamRequest, hp, he]
  simp [holdRequest, portHeld, hp]

/-- Settles O35: with nothing pending a NEXT_RECORD is evaluated, and its answer or its hold is all that happens. -/
theorem nextRecordPullsTheOldest : Obligations.NextRecordPullsTheOldest := fun _ _ hp =>
  ⟨fun hi => exec_nextRecord_answers hp (evalRequest_of_empty_slot hi),
    fun _ hi hst hd => exec_nextRecord_answers hp (evalRequest_of_closed hi hst hd),
    fun i hi hst hm => exec_nextRecord_holds hp (evalRequest_eq_none_iff.mpr ⟨i, hi, hst, hm⟩),
    fun _ _ _ hi hst hm hq => exec_nextRecord_answers hp (evalRequest_of_record hi hst hm hq)⟩

/-- An evaluation answers, and may take a record from its slot: it leaves the stream ports to its caller (R179). -/
theorem evalRequest_streams {p : ButtonPin} {s u : State} (h : evalRequest p s = some u) : u.streams = s.streams := by
  rcases evalRequest_cases p s with ⟨_, he⟩ | ⟨_, _, _, _, he⟩ | ⟨_, _, _, _, _, _, he⟩ | ⟨_, _, _, _, he⟩ <;>
    rw [he] at h <;> cases h <;> rfl

/-- An evaluation does not look at the coming turns. -/
theorem evalRequest_inputs (p : ButtonPin) (s : State) (rest : List Turn) :
    evalRequest p { s with inputs := rest } = (evalRequest p s).map fun u => { u with inputs := rest } := by
  simp only [evalRequest]
  cases s.slots.get p with
  | none => rfl
  | some i =>
    obtain ⟨st, monitoring, queue⟩ := i
    cases s.params.drainBeforeEnd <;> cases st <;> cases monitoring <;> cases queue <;> rfl

/-- The answer of slot p's held request, with the port's next waiting request now pending (R42, R179; log 12). -/
theorem serveRequest_eq {p : ButtonPin} {s u : State} (h : evalRequest p s = some u) :
    serveRequest p s = { u with
      streams := s.streams.set p ⟨decide (0 < (s.streams.get p).waiting), (s.streams.get p).waiting - 1⟩ } := by
  simp only [serveRequest, h, takeRequest, portTaken, evalRequest_streams h]

theorem requestReady_iff {p : ButtonPin} {s : State} :
    requestReady s p = true ↔ (s.streams.get p).pending = true ∧ ∃ u, evalRequest p s = some u := by
  simp [requestReady, Option.isSome_iff_exists]

theorem requestReady_eq_false_iff {p : ButtonPin} {s : State} :
    requestReady s p = false ↔ (s.streams.get p).pending = false ∨ evalRequest p s = none := by
  rw [requestReady, Bool.and_eq_false_iff, Option.isSome_eq_false_iff, Option.isNone_iff_eq_none]

theorem requestTurn_answers {p : ButtonPin} {s u : State} (hp : (s.streams.get p).pending = true)
    (he : evalRequest p s = some u) : requestTurn p s = { u with
      streams := s.streams.set p ⟨decide (0 < (s.streams.get p).waiting), (s.streams.get p).waiting - 1⟩ } := by
  rw [requestTurn, if_pos (requestReady_iff.mpr ⟨hp, u, he⟩), serveRequest_eq he]

theorem requestTurn_holds {p : ButtonPin} {s : State}
    (h : (s.streams.get p).pending = false ∨ evalRequest p s = none) : requestTurn p s = s := by
  rw [requestTurn, requestReady_eq_false_iff.mpr h]
  rfl

/-- The first ready slot in table order has the completion (R179; log 10). -/
theorem readySlot_eq_some_of_first {p : ButtonPin} {s : State} {earlier later : List ButtonPin}
    (hall : ButtonPin.all = earlier ++ p :: later) (hfirst : ∀ q ∈ earlier, requestReady s q = false)
    (hp : requestReady s p = true) : readySlot s = some p :=
  List.find?_eq_some_iff_append.mpr ⟨hp, earlier, later, hall, fun q hq => by simp [hfirst q hq]⟩

theorem nextIsEarly_eq_false {s : State} (h : s.inputs = [] ∨ ∃ x rest, s.inputs = ⟨x, false⟩ :: rest) :
    nextIsEarly s = false := by
  rcases h with h | ⟨x, rest, h⟩ <;> simp [nextIsEarly, h]

/-- Settles O39: the scheduler picks the first ready slot or the slot of the turn, and its answer is the step. -/
theorem heldRequestCompletesAtOnce : Obligations.HeldRequestCompletesAtOnce := by
  refine ⟨fun s u p hp he => ⟨fun earlier later hall hfirst hin => ?_, fun rest hturn => ?_⟩,
    fun s p rest hturn hn => ?_⟩
  · have hready : readySlot s = some p := readySlot_eq_some_of_first hall
      (fun q hq => requestReady_eq_false_iff.mpr (hfirst q hq)) (requestReady_iff.mpr ⟨hp, u, he⟩)
    rw [step_serves (nextIsEarly_eq_false hin) hready, serveRequest_eq he]
  · have he' : evalRequest p { s with inputs := rest } = some { u with inputs := rest } := by
      rw [evalRequest_inputs, he]
      rfl
    rw [step_takesTurn hturn]
    exact congrArg _ (requestTurn_answers (s := { s with inputs := rest }) hp he')
  · have hn' : (s.streams.get p).pending = false ∨ evalRequest p { s with inputs := rest } = none :=
      hn.imp_right fun he => by rw [evalRequest_inputs, he]; rfl
    rw [step_takesTurn hturn]
    exact congrArg _ (requestTurn_holds (s := { s with inputs := rest }) hn')

end Sys2Proof.Proofs

/-! ## A press and its release -/

namespace Sys2Proof.Proofs

open Sys2Proof.Machine Sys2Proof.Claims

/-- The instance i after a press at time t (R174, R176). -/
def pressed (cap : QueueCap) (t : Time) (i : Monitor) : Monitor := { appendState cap true i with lastPress := t }

/-- The state in which a release at time t finds slot p after a press now. -/
def afterPress (p : ButtonPin) (i : Monitor) (t : Time) (s : State) : State :=
  { s with
    slots := s.slots.set p (some (pressed s.params.queueCap s.nowMs i))
    signals := s.signals ++ [.pinChange p true]
    nowMs := t }

theorem ticking_afterPress {p : ButtonPin} {i : Monitor} {s : State} (t : Time) (h : Ticking s p i) :
    Ticking (afterPress p i t s) p (pressed s.params.queueCap s.nowMs i) := by
  obtain ⟨-, hst, hpin⟩ := h
  exact ⟨PerButton.get_set_same .., (appendState_st ..).trans hst, hpin⟩

theorem expired_afterPress_iff {p : ButtonPin} {i : Monitor} {s : State} {t : Time} {cap : QueueCap} :
    Expired (afterPress p i t s) (pressed cap s.nowMs i) ↔
      0 < s.nowMs.toNat ∧ (i.idleTimeoutMs : Int) < (t.toNat : Int) - (s.nowMs.toNat : Int) := by
  simp only [Expired, pressed, afterPress, appendState_idleTimeoutMs]

/-- Settles O40: the release finds no timeout, and both ticks append to the unbounded queue. -/
theorem shortPressQueuesTwoRecords : Obligations.ShortPressQueuesTwoRecords := by
  intro p i s t htick hcap hle
  obtain ⟨-, hst, -⟩ := id htick
  have hkept : ¬ Expired (afterPress p i t s) (pressed s.params.queueCap s.nowMs i) := fun h =>
    absurd (expired_afterPress_iff.mp h).2 (by omega)
  refine ⟨_, _, _, pressTick p i s htick, (releaseTick p _ _ (ticking_afterPress t htick)).1 hkept,
    PerButton.get_set_same .., ?_, ?_, rfl, ?_⟩
  · simpa [pressed] using hst
  · simp [afterPress, pressed, hcap, appendState, queueFull]
  · simp [afterPress]

/-- Settles O41: the release finds the timeout and closes the instance, and a closed instance answers END. -/
theorem longPressEndsTheStream : Obligations.LongPressEndsTheStream := by
  intro p i s t htick hnow hlong hdrain hpend
  have hexp : Expired (afterPress p i t s) (pressed s.params.queueCap s.nowMs i) :=
    expired_afterPress_iff.mpr ⟨hnow, hlong⟩
  refine ⟨_, _, pressTick p i s htick, (releaseTick p _ _ (ticking_afterPress t htick)).2 hexp, ?_, ?_, ?_⟩
  · simp [afterPress]
  · simp
  · exact exec_nextRecord_answers hpend (evalRequest_of_closed (PerButton.get_set_same ..) rfl hdrain)

end Sys2Proof.Proofs

/-! ## A consumer cut off by TEARDOWN -/

namespace Sys2Proof.Proofs

open Sys2Proof.Machine Sys2Proof.Claims

theorem tickInstance_signals (p : ButtonPin) (level : Bool) (i : Monitor) (s : State) :
    ∃ v l, (tickInstance p level i s).signals = s.signals ++ .pinChange p v :: l := by
  rcases tickInstance_cases p level i s with ⟨-, h⟩ | ⟨-, -, h⟩ | ⟨-, -, h⟩ <;> rw [h]
  · exact ⟨true, [], rfl⟩
  · exact ⟨false, [], rfl⟩
  · exact ⟨false, [.ended p], by simp [closeMonitor]⟩

theorem advanceRender_signals (k : Fin renderWrites) (cont : Continuation) (s : State) :
    (advanceRender k cont s).signals = s.signals := by
  rcases advanceRender_cases k cont s with ⟨_, h⟩ | ⟨_, h⟩ <;> rw [h]
  cases cont <;> simp [continueWith]

/-- What an action emits: nothing, monitoring(p), or a tick's pinChange(p, v), and that only at an input pin (R32,
R173). -/
theorem action_signals {s t : State} (h : Action s t) :
    t.signals = s.signals ∨ (∃ p, t.signals = s.signals ++ [.monitoring p]) ∨
      ∃ p v l, s.pinCfg.get (.button p) = .inputPullup ∧ t.signals = s.signals ++ .pinChange p v :: l := by
  cases h with
  | tick p level i slot st pin =>
    obtain ⟨v, l, h⟩ := tickInstance_signals p level i s
    exact .inr (.inr ⟨p, v, l, pin, h⟩)
  | settle p => exact .inr (.inl ⟨p, rfl⟩)
  | painted => exact .inl (stripOnly_finish_paint ..).signals
  | write => exact .inl (by rw [advanceRender_signals, gpioWrite_signals])
  | init | teardown | release => exact .inl (by simp [initStrip])
  | answer | hold | render | startMonitor | clock | deliver | holdRequest => exact .inl rfl

/-- A tick is an action only at an input pin (R173). -/
theorem input_of_action_tickInstance {p : ButtonPin} {level : Bool} {i : Monitor} {s : State}
    (h : Action s (tickInstance p level i s)) : s.pinCfg.get (.button p) = .inputPullup := by
  obtain ⟨v, l, hp⟩ := tickInstance_signals p level i s
  rcases action_signals h with hq | ⟨q, hq⟩ | ⟨q, w, l', hpin, hq⟩ <;> rw [hp] at hq
  · simp at hq
  · simp at hq
  · simp only [List.append_cancel_left_eq, List.cons.injEq, Signal.pinChange.injEq] at hq
    obtain ⟨⟨rfl, -⟩, -⟩ := hq
    exact hpin

theorem hung_of_slotFrame {q : ButtonPin} {i : Monitor} {s t : State} (h : SlotFrame q s t) (hs : Hung s q i) :
    Hung t q i := by
  obtain ⟨hslot, hst, hm, hq, hpin, hpend⟩ := hs
  exact ⟨h.slot.trans hslot, hst, hm, hq, h.pin.elim (·.trans hpin) id, (congrArg _ h.stream).trans hpend⟩

theorem evalRequest_of_hung {q : ButtonPin} {i : Monitor} {s : State} (hs : Hung s q i) : evalRequest q s = none := by
  obtain ⟨hslot, hst, -, hq, -⟩ := hs
  exact evalRequest_eq_none_iff.mpr ⟨i, hslot, hst, .inr hq⟩

/-- A hung request is not answered: it still holds (R179). -/
theorem not_service_of_hung {q : ButtonPin} {i : Monitor} {s t : State} (hs : Hung s q i) : ¬ Service q s t := by
  intro h
  cases h with
  | answer code pending answers => simp [evalRequest_of_hung hs] at answers
  | deliver j v rest slot queue =>
    obtain ⟨hslot, -, -, hq, -⟩ := hs
    obtain rfl : i = j := Option.some.inj (hslot.symm.trans slot)
    simp [hq] at queue

/-- An action keeps a hung slot hung, or replaces its instance: the pin takes no tick, the flag is set already, there
is no record to pull, and one more request only waits behind the pending one. -/
theorem hung_action {q : ButtonPin} {i : Monitor} {s t : State} (hs : Hung s q i) (h : Action s t) :
    Hung t q i ∨ t.slots.get q = some (newMonitor s.params.idleTimeoutMs s.nowMs) := by
  rcases action_slot q h with hf | ha
  · exact .inl (hung_of_slotFrame hf hs)
  obtain ⟨hslot, hst, hm, hq, hpin, hpend⟩ := id hs
  have hinst : ∀ {j}, s.slots.get q = some j → j = i := fun hj => Option.some.inj (hj.symm.trans hslot)
  cases ha with
  | start => exact .inr (PerButton.get_set_same ..)
  | tick level j => exact absurd (hpin.symm.trans (input_of_action_tickInstance h)) (by decide)
  | settle j slot =>
    obtain rfl := hinst slot
    exact .inl ⟨by rw [← hm]; exact PerButton.get_set_same .., hst, hm, hq, hpin, hpend⟩
  | deliver j v rest slot queue =>
    obtain rfl := hinst slot
    simp [hq] at queue
  | hold => exact .inl ⟨hslot, hst, hm, hq, hpin, by simp [portHeld, hpend]⟩
  | serve hv => exact absurd hv (not_service_of_hung hs)

/-- Settles O42: only a MONITOR_BUTTON ends the hang, and no completion of a request is one of the hung slot's. -/
theorem teardownHangIsKept : Obligations.TeardownHangIsKept := by
  intro s t q i hs h
  obtain ⟨s', hp, he⟩ := step_cases h
  have hs' : Hung s' q i := hung_of_slotFrame (slotFrame_popped q hp) hs
  rcases he with rfl | ha | ⟨p, hv⟩
  · exact .inl hs'
  · have hmove := hung_action hs' ha
    obtain ⟨_, _, -, -, rfl⟩ := hp
    exact hmove
  · have hne : q ≠ p := by
      rintro rfl
      exact not_service_of_hung hs' hv
    exact .inl (hung_of_slotFrame (slotFrame_service hne hv) hs')

end Sys2Proof.Proofs

/-! ## What a failing command leaves unchanged -/

namespace Sys2Proof.Proofs

open Sys2Proof.Machine Sys2Proof.Claims

/-- An answer other than OK that the change from s to t gives carries no payload, and is the whole change (R210). -/
def FailsCleanly (s t : State) : Prop :=
  ∀ r : Response, t.responses = s.responses ++ [r] → r.code ≠ .ok →
    r.payload = .none ∧ t = { s with responses := s.responses ++ [r] }

theorem failsCleanly_raiseError {port : PortId} {code : Code} {s : State} :
    FailsCleanly s (raiseError port code s) := by
  intro r h _
  obtain rfl : (⟨port, code, .none⟩ : Response) = r := by simpa using h
  exact ⟨rfl, rfl⟩

/-- A change that answers OK does not fail, whatever else it writes. -/
theorem failsCleanly_of_ok {port : PortId} {payload : Payload} {s t : State}
    (h : t.responses = s.responses ++ [⟨port, .ok, payload⟩]) : FailsCleanly s t := by
  intro r hr hcode
  obtain rfl : (⟨port, .ok, payload⟩ : Response) = r := by simpa [h] using hr
  exact absurd rfl hcode

/-- A change that gives no answer does not fail, whatever else it writes. -/
theorem failsCleanly_of_silent {s t : State} (h : t.responses = s.responses) : FailsCleanly s t := by
  intro r hr
  simp [h] at hr

theorem failsCleanly_onControl {i : Instr} {perform : State → State} {s : State} (h : FailsCleanly s (perform s)) :
    FailsCleanly s (onControl i perform s) :=
  iteInduction (fun _ => h) fun _ => failsCleanly_of_silent (holdWord_responses ..)

/-- FINISH answers OK, or starts a render and gives no answer yet (R110). -/
theorem failsCleanly_finish_paint {i : Instr} {f : Bool} {sel : Fin pixelCount → Bool} {r g b : Byte}
    {e : Option Bri} {s : State} : FailsCleanly s (finish i f (paint sel r g b e s)) := by
  cases f with
  | false => exact failsCleanly_of_ok rfl
  | true => exact failsCleanly_of_silent rfl

theorem failsCleanly_paintChecked {i : Instr} {f : Bool} {sel : Fin pixelCount → Bool} {r g b : Byte}
    {bri : Option Binary64} {s : State} : FailsCleanly s (paintChecked i f sel r g b bri s) :=
  iteInduction (fun _ => failsCleanly_raiseError) fun _ =>
    iteInduction (fun _ => failsCleanly_raiseError) fun _ => failsCleanly_finish_paint

theorem failsCleanly_initCommand {bri : Option Binary64} {s : State} : FailsCleanly s (initCommand bri s) :=
  iteInduction (fun _ => failsCleanly_raiseError) fun _ =>
    iteInduction (fun _ => failsCleanly_raiseError) fun _ => failsCleanly_of_ok rfl

theorem failsCleanly_setPixelCommand {a : Int} {r g b : Byte} {bri : Option Binary64} {f : Bool} {s : State} :
    FailsCleanly s (setPixelCommand a r g b bri f s) := by
  rw [setPixelCommand_eq]
  exact iteInduction (fun _ => failsCleanly_paintChecked) fun _ => failsCleanly_raiseError

theorem failsCleanly_setChannelCommand {a : Int} {r g b : Byte} {bri : Option Binary64} {f : Bool} {s : State} :
    FailsCleanly s (setChannelCommand a r g b bri f s) := by
  rw [setChannelCommand_eq]
  exact iteInduction (fun _ => failsCleanly_paintChecked) fun _ => failsCleanly_raiseError

theorem failsCleanly_renderCommand {s : State} : FailsCleanly s (renderCommand s) :=
  iteInduction (fun _ => failsCleanly_raiseError) fun _ => failsCleanly_of_silent (startRender_responses ..)

/-- TEARDOWN never fails: it starts a render, or RELEASE answers OK (R111). -/
theorem failsCleanly_teardownCommand {f : Bool} {s : State} : FailsCleanly s (teardownCommand f s) :=
  iteInduction (fun _ => failsCleanly_of_silent (by simp)) fun _ => failsCleanly_of_ok (release_responses s)

theorem failsCleanly_monitorButtonCommand {a : Int} {s : State} : FailsCleanly s (monitorButtonCommand a s) := by
  unfold monitorButtonCommand
  split
  · exact failsCleanly_raiseError
  · exact iteInduction (fun _ => failsCleanly_raiseError) fun _ => failsCleanly_of_ok rfl

/-- A request at a stream port is held, or answers NoMonitor, END or a record; a record is answered OK (R179). -/
theorem failsCleanly_streamRequest {p : ButtonPin} {s : State} : FailsCleanly s (streamRequest p s) := by
  have held : FailsCleanly s (holdRequest p s) := failsCleanly_of_silent (holdRequest_responses p s)
  refine iteInduction (fun _ => held) fun _ => ?_
  rcases evalRequest_cases p s with ⟨-, he⟩ | ⟨i, -, -, -, he⟩ | ⟨i, v, rest, -, -, -, he⟩ | ⟨i, -, -, -, he⟩ <;>
    rw [he]
  · exact failsCleanly_raiseError
  · exact failsCleanly_raiseError
  · exact failsCleanly_of_ok rfl
  · exact held

theorem tickInstance_responses (p : ButtonPin) (level : Bool) (i : Monitor) (s : State) :
    (tickInstance p level i s).responses = s.responses := by
  rcases tickInstance_cases p level i s with ⟨-, h⟩ | ⟨-, -, h⟩ | ⟨-, -, h⟩ <;> rw [h] <;> rfl

theorem tickStep_responses (p : ButtonPin) (level : Bool) (s : State) :
    (tickStep p level s).responses = s.responses := by
  unfold tickStep
  split
  · rfl
  · split
    · exact tickInstance_responses ..
    · rfl

/-- A poll tick is no command, and only commands are answered (R79). -/
theorem pollTickEvent_responses (pin : Nat) (level : Bool) (s : State) :
    (pollTickEvent pin level s).responses = s.responses := by
  unfold pollTickEvent
  split
  · rfl
  · exact tickStep_responses ..

theorem execState_failsCleanly (i : Instr) (s : State) : FailsCleanly s (execState i s) := by
  cases i with
  | init => exact failsCleanly_onControl failsCleanly_initCommand
  | setPixel => exact failsCleanly_onControl failsCleanly_setPixelCommand
  | setChannel => exact failsCleanly_onControl failsCleanly_setChannelCommand
  | setAll => exact failsCleanly_onControl (by rw [setAllCommand_eq]; exact failsCleanly_paintChecked)
  | clearAll => exact failsCleanly_onControl (by rw [clearAllCommand_eq]; exact failsCleanly_paintChecked)
  | render => exact failsCleanly_onControl failsCleanly_renderCommand
  | teardown => exact failsCleanly_onControl failsCleanly_teardownCommand
  | getButtonSpecs => exact failsCleanly_onControl (failsCleanly_of_ok rfl)
  | monitorButton => exact failsCleanly_onControl failsCleanly_monitorButtonCommand
  | nextRecord a =>
    simp only [execState, nextRecordCommand]
    split
    · exact failsCleanly_onControl failsCleanly_raiseError
    · exact failsCleanly_streamRequest
  | pollTick => exact failsCleanly_of_silent (pollTickEvent_responses ..)

/-- Settles O19: every answer of an instruction is `raiseError`'s or OK. -/
theorem failedCommandChangesNothing : Obligations.FailedCommandChangesNothing := by
  intro i s t r h
  rw [exec_eq] at h
  cases h
  exact execState_failsCleanly i s r

end Sys2Proof.Proofs

/-! SUPPORT AND PROOFS of the statements about reset and hazards (spec/70_reset_and_hazards.md): where alone a step can
fault, and the state after reset. -/

/-! ## No step reads a state that holds no value -/

namespace Sys2Proof.Proofs

open Sys2Proof.Machine

/-- The render sequencer is between two writes while the buffer holds no value (R241). -/
def RendersNoValue (s : State) : Prop := s.rs ≠ .idle ∧ s.lc = .uninit

/-- A render runs only in READY (R26). -/
theorem not_rendersNoValue_of_stripInv {s : State} (hs : StripInv s) : ¬ RendersNoValue s := by
  rintro ⟨hbusy, hlc⟩
  cases hrs : s.rs with
  | idle => exact hbusy hrs
  | busy k cont =>
    have hready : s.lc = .ready := ((stripInv_busy_iff hrs).mp hs).1
    rw [hlc] at hready
    cases hready

theorem exec_ne_fault (i : Instr) (s : State) (e : Fault) : exec i s ≠ .fault e := by
  rw [exec_eq]
  exact nofun

theorem performWord_ne_fault (w : HeldWord) (s : State) (e : Fault) : performWord w s ≠ .fault e := by
  cases w with
  | command i => exact exec_ne_fault i s e
  | illegal => exact nofun

theorem arriveWord_ne_fault (w : CommandWord) (s : State) (e : Fault) : arriveWord w s ≠ .fault e := by
  unfold arriveWord
  split
  · exact nofun
  · unfold arriveCommand
    split
    · exact exec_ne_fault _ _ e
    · split
      · exact exec_ne_fault _ _ e
      · exact nofun

theorem arriveEvent_ne_fault (w : EventWord) (s : State) (e : Fault) : arriveEvent w s ≠ .fault e := by
  unfold arriveEvent
  split
  · exact nofun
  · exact exec_ne_fault _ _ e

/-- The sequencer's turn faults only at the assertion before a render write. -/
theorem rendersNoValue_of_controlTurn_fault {s : State} {e : Fault} (h : controlTurn s = .fault e) :
    RendersNoValue s := by
  cases hrs : s.rs with
  | busy k cont =>
    by_cases hlc : s.lc = .uninit
    · exact ⟨by simp [hrs], hlc⟩
    · rw [controlTurn_busy hrs hlc] at h
      cases h
  | idle =>
    simp only [controlTurn, hrs] at h
    split at h
    · cases h
    · split at h
      · exact absurd h (performWord_ne_fault _ _ e)
      · cases h

theorem rendersNoValue_of_takeInput_fault {x : Input} {s : State} {e : Fault} (h : takeInput x s = .fault e) :
    RendersNoValue s := by
  cases x with
  | command w => exact absurd h (arriveWord_ne_fault w s e)
  | event w => exact absurd h (arriveEvent_ne_fault w s e)
  | settle p => cases h
  | clock t => cases h
  | request p => cases h
  | control => exact rendersNoValue_of_controlTurn_fault h

/-- The only fault of a step is a render write while the buffer holds no value (R241). -/
theorem rendersNoValue_of_step_fault {s : State} {e : Fault} (h : step s = .fault e) : RendersNoValue s := by
  unfold step scheduledStep at h
  split at h
  · cases h
  · unfold takeTurn at h
    split at h
    · exact rendersNoValue_of_controlTurn_fault h
    · rename_i x rest _
      exact rendersNoValue_of_takeInput_fault (s := { s with inputs := rest }) h

/-- Settles O52: a step faults only in a render without a value, which the strip invariant excludes. -/
theorem noValueIsNeverRead : Obligations.NoValueIsNeverRead :=
  fun _ _ hs h => not_rendersNoValue_of_stripInv hs (rendersNoValue_of_step_fault h)

end Sys2Proof.Proofs

/-! ## The state after reset -/

namespace Sys2Proof.Proofs

open Sys2Proof.Machine

theorem reset_pinCfg_get (p : Pin) : State.reset.pinCfg.get p = .closed := by
  cases p with
  | data => rfl
  | clock => rfl
  | button b => exact PerButton.get_replicate PinConfig.closed b

theorem reset_slots_get (p : ButtonPin) : State.reset.slots.get p = none := PerButton.get_replicate none p

theorem reset_streams_get (p : ButtonPin) : State.reset.streams.get p = ⟨false, 0⟩ :=
  PerButton.get_replicate (⟨false, 0⟩ : StreamPort) p

/-- Settles O43: the per-pin maps are constant, and the other fields are read off the reset state. -/
theorem resetState : Obligations.ResetState :=
  ⟨rfl, reset_pinCfg_get, rfl, rfl, rfl, rfl, reset_slots_get, reset_streams_get, rfl, rfl, rfl, rfl⟩

theorem stripInv_reset : StripInv State.reset :=
  (stripInv_idle_iff rfl).mpr ⟨rfl, nofun, fun _ => ⟨rfl, rfl, rfl, rfl⟩⟩

/-- The bound is that of the placeholder, whose brightness is 0. -/
theorem briInv_reset : BriInv State.reset := fun i => by simp [State.reset, Pixel.placeholder]

/-- Every pin is closed, and there is no instance and no request. -/
theorem monitorInv_reset : MonitorInv State.reset := fun p => by
  have hpin : State.reset.pinCfg.buttons.get p = .closed := reset_pinCfg_get (.button p)
  rw [SlotInv, hpin, reset_slots_get, reset_streams_get]
  exact ⟨nofun, nofun, nofun, nofun, nofun⟩

/-- Settles O47: one lemma for each invariant; the empty trace leaves no levels and has no wire bits. -/
theorem resetMeetsTheInvariants : Obligations.ResetMeetsTheInvariants :=
  ⟨stripInv_reset, briInv_reset, monitorInv_reset, rfl, rfl⟩

end Sys2Proof.Proofs

/-! ## A closed instance drained before END -/

namespace Sys2Proof.Proofs

open Sys2Proof.Machine Sys2Proof.Claims

theorem evalRequest_of_drained {p : ButtonPin} {s : State} {i : Monitor} (hi : s.slots.get p = some i)
    (hst : i.st = .closed) (hq : i.queue = []) :
    evalRequest p s = some (respond (.stream p) .ended .none s) := by
  simp [evalRequest, hi, hst, hq]

theorem evalRequest_of_draining {p : ButtonPin} {s : State} {i : Monitor} {v : Bool} {rest : List Bool}
    (hi : s.slots.get p = some i) (hst : i.st = .closed) (hd : s.params.drainBeforeEnd = true)
    (hq : i.queue = v :: rest) : evalRequest p s = some (deliver p i v rest s) := by
  simp [evalRequest, hi, hst, hd, hq]

/-- Settles O37: with nothing pending the evaluation answers END at an empty queue and the oldest record otherwise. -/
theorem drainBeforeEnd : Obligations.DrainBeforeEnd := fun _ _ _ hp hd hi hst =>
  ⟨fun hq => exec_nextRecord_answers hp (evalRequest_of_drained hi hst hq),
    fun _ _ hq => exec_nextRecord_answers hp (evalRequest_of_draining hi hst hd hq)⟩

end Sys2Proof.Proofs
